-- ==== Sys2Proof/Word.lean ====
section
/-! DEFINITION. The one word type of the block: every value it handles is one byte wide (rules R11, R53). -/

namespace Sys2Proof

/-- `u8` of the spec (rule R13): bit 7 is the most significant bit, weight `0x80`.
A RawByte, a table index, a table entry and an output code are all of this type. -/
abbrev Byte := BitVec 8

end Sys2Proof
end

