-- ==== Sys2Proof/Config.lean ====
section
/-! DEFINITION. The two open parameters of the block (rule R10, decisions D3 and D4), and the free values
of a Byte Source whose supply of bytes has no end (decision D11). -/

namespace Sys2Proof

/-- `VARIANT` (rules R3, R10, R163): which of the two protocol variants the instance decodes.
It is fixed when the instance is made; `Machine.State` carries it and nothing changes it. -/
inductive Variant
  | multiByte
  | singleByte
deriving DecidableEq, Repr

/-- `PAUSE_ID` (rules R10, R107, decision D3): the identifier that stands for the pause key.
The spec gives no value, so none can be known here: this constant has no body.
`Machine.State.reset` starts from it; every claim over all states holds for every value. -/
opaque Config.pauseId : Byte

/-- The variant of the one instance `Machine.State.reset` describes.
DESIGN CHOICE (assumption 1): the spec leaves `VARIANT` open and the reset state is one state;
`Machine.State.resetOf` gives the reset state of either variant. -/
def Config.resetVariant : Variant := .multiByte

/-- What a free, endless supply does at its moment `n`: deliver a byte, or deliver none. No byte value and
no moment is known, so a claim that meets it holds for every supply (entries U6 and U11, assumption 20). -/
opaque Config.freeByte : Nat → Option Byte

end Sys2Proof
end

