-- ==== Sys2Proof/Syntax.lean ====
section
/-! DEFINITION. The instructions (byte classes) of the opcode table, the written units of rule R86,
and the host operations of rule R84, which have no encoding. -/

namespace Sys2Proof

/-- One constructor per mnemonic of `opcode_table.json` (rules R71, R74). `MB.` instructions exist in
the multi-byte variant, `SB.` instructions in the single-byte variant (rule R87). -/
inductive Instr
  /-- `MB.OVR`, byte `0xFF` (rule R101). -/
  | mbOvr
  /-- `MB.BRK`, byte `0xF0` (rule R102). -/
  | mbBrk
  /-- `MB.EXT`, byte `0xE0` (rule R103). -/
  | mbExt
  /-- `MB.PAU`, byte `0xE1` (rule R104). -/
  | mbPau
  /-- `MB.DATA d`, every other byte; `d` is the whole byte (rules R72, R105). -/
  | mbData (d : Byte)
  /-- `SB.MAKE i`, `0iiiiiii` (rule R131). -/
  | sbMake (i : BitVec 7)
  /-- `SB.BREAK i`, `1iiiiiii` (rule R132). -/
  | sbBreak (i : BitVec 7)
deriving DecidableEq, Repr

/-- The mnemonics of the table (rules R71, R74, R85): twelve rows share `mbData` (rule R73). -/
inductive Mnemonic
  | mbOvr | mbBrk | mbExt | mbPau | mbData | sbMake | sbBreak
deriving DecidableEq, Repr

/-- The mnemonic of an instruction. -/
def Instr.mnemonic : Instr → Mnemonic
  | .mbOvr => .mbOvr
  | .mbBrk => .mbBrk
  | .mbExt => .mbExt
  | .mbPau => .mbPau
  | .mbData _ => .mbData
  | .sbMake _ => .sbMake
  | .sbBreak _ => .sbBreak

/-- The variant whose format an instruction belongs to: `VARIANT` selects the format (rule R87). -/
def Instr.variant : Instr → Variant
  | .mbOvr => .multiByte
  | .mbBrk => .multiByte
  | .mbExt => .multiByte
  | .mbPau => .multiByte
  | .mbData _ => .multiByte
  | .sbMake _ => .singleByte
  | .sbBreak _ => .singleByte

/-- The units of a well-formed multi-byte stream (rules R76, R86): the five pseudo-instructions and
the overrun marker, which may stand anywhere. -/
inductive Unit76
  | keyDown (d : Byte)
  | keyUp (d : Byte)
  | xKeyDown (d : Byte)
  | xKeyUp (d : Byte)
  | pauseKey (d1 d2 : Byte)
  | overrun
deriving DecidableEq, Repr

/-- The operations of the host (rules R8, R9, R84): calls, not bytes. -/
inductive HostOp
  /-- Rule R200. -/
  | reset
  /-- Rule R140: the whole array, element `i` for index `i` (rules R54, R83). -/
  | configure (entries : Vector Byte 256)
  /-- Rule R161. -/
  | enable
  /-- Rule R162. -/
  | disable
  /-- Rule R178, invoked by the host when the interrupt fires. -/
  | service
deriving DecidableEq, Repr

end Sys2Proof
end

