-- ==== Sys2Proof/Decode.lean ====
section
/-! DEFINITION. From bytes to instructions and back (rules R70 to R74, R87, R100, R130). -/

namespace Sys2Proof

/-- `SENT_OVR` (rule R11). -/
def sentOvr : Byte := 0xFF#8

/-- `SENT_BRK` (rule R11). -/
def sentBrk : Byte := 0xF0#8

/-- `SENT_EXT` (rule R11). -/
def sentExt : Byte := 0xE0#8

/-- `SENT_PAU` (rule R11). -/
def sentPau : Byte := 0xE1#8

/-- Sentinel: one of `0xFF`, `0xF0`, `0xE0`, `0xE1`; every other byte is a data byte (rule R19). -/
def isSentinel (b : Byte) : Bool :=
  b == sentOvr || b == sentBrk || b == sentExt || b == sentPau

/-- Why the decoder gives no instruction. No byte value is illegal (rules R70, R78), so the one
reason is that there is no byte. -/
inductive DecodeError
  | noByte
deriving DecidableEq, Repr

/-- The byte class in the multi-byte variant: tests in this order, first match wins (rules R71, R100). -/
def decodeMb (b : Byte) : Instr :=
  if b = sentOvr then .mbOvr
  else if b = sentBrk then .mbBrk
  else if b = sentExt then .mbExt
  else if b = sentPau then .mbPau
  else .mbData b

/-- The byte class in the single-byte variant: bit 7 is the release bit, bits 6 to 0 the identifier
(rules R74, R130). -/
def decodeSb (b : Byte) : Instr :=
  if b.getLsbD 7 then .sbBreak (b.extractLsb' 0 7) else .sbMake (b.extractLsb' 0 7)

/-- Which operation a byte selects depends on `VARIANT` and the byte only (rule R70). -/
def decodeByte (v : Variant) (b : Byte) : Instr :=
  match v with
  | .multiByte => decodeMb b
  | .singleByte => decodeSb b

/-- The decoder over a byte stream in arrival order: one byte per instruction, no lookahead
(rules R24, R70). Answers the instruction and the rest of the stream. -/
def decode (v : Variant) : List Byte → Except DecodeError (Instr × List Byte)
  | [] => .error .noByte
  | b :: rest => .ok (decodeByte v b, rest)

/-- The byte of an instruction (rules R71, R72, R74). -/
def encodeByte : Instr → Byte
  | .mbOvr => 0b11111111#8
  | .mbBrk => 0b11110000#8
  | .mbExt => 0b11100000#8
  | .mbPau => 0b11100001#8
  | .mbData d => d
  | .sbMake i => 0#1 ++ i
  | .sbBreak i => 1#1 ++ i

/-- The encoding of an instruction: all symbols are one byte long (rule R70). -/
def encode (i : Instr) : List Byte := [encodeByte i]

/-- The bytes of a unit of rule R76 (the expansions of rule R86). -/
def Unit76.bytes : Unit76 → List Byte
  | .keyDown d => [d]
  | .keyUp d => [0xF0#8, d]
  | .xKeyDown d => [0xE0#8, d]
  | .xKeyUp d => [0xE0#8, 0xF0#8, d]
  | .pauseKey d1 d2 => [0xE1#8, d1, d2]
  | .overrun => [0xFF#8]

/-- One row of the opcode table: a byte `b` matches when `b & mask == value` (rule R87). -/
structure Row where
  variant : Variant
  mnemonic : Mnemonic
  value : Byte
  mask : Byte
deriving DecidableEq, Repr

/-- Whether a byte matches a row (rule R87). -/
def Row.hits (r : Row) (b : Byte) : Bool := b &&& r.mask == r.value

/-- The rows of the four sentinels and of the single-byte variant (rules R71, R74). -/
def plainRows : List Row :=
  [⟨.multiByte, .mbOvr, 0xFF, 0xFF⟩, ⟨.multiByte, .mbBrk, 0xF0, 0xFF⟩,
   ⟨.multiByte, .mbExt, 0xE0, 0xFF⟩, ⟨.multiByte, .mbPau, 0xE1, 0xFF⟩,
   ⟨.singleByte, .sbMake, 0x00, 0x80⟩, ⟨.singleByte, .sbBreak, 0x80, 0x80⟩]

/-- The twelve disjoint patterns of the data bytes (rule R73). -/
def dataRows : List Row :=
  [⟨.multiByte, .mbData, 0x00, 0x80⟩, ⟨.multiByte, .mbData, 0x80, 0xC0⟩,
   ⟨.multiByte, .mbData, 0xC0, 0xE0⟩, ⟨.multiByte, .mbData, 0xE2, 0xFE⟩,
   ⟨.multiByte, .mbData, 0xE4, 0xFC⟩, ⟨.multiByte, .mbData, 0xE8, 0xF8⟩,
   ⟨.multiByte, .mbData, 0xF1, 0xFF⟩, ⟨.multiByte, .mbData, 0xF2, 0xFE⟩,
   ⟨.multiByte, .mbData, 0xF4, 0xFC⟩, ⟨.multiByte, .mbData, 0xF8, 0xFC⟩,
   ⟨.multiByte, .mbData, 0xFC, 0xFE⟩, ⟨.multiByte, .mbData, 0xFE, 0xFF⟩]

/-- The 18 rows of the opcode table (rule R87). -/
def opcodeRows : List Row := plainRows ++ dataRows

/-- The byte of a table word: the table's bits are the bits of the one byte, bit 0 the least
significant; bits above `nbits` are zero. -/
def tableByte (nbits w : Nat) : Byte := BitVec.ofNat 8 (w % 2 ^ nbits)

/-- What the decoder reads from a word of the opcode table, in the variant of the reset state.
The rows of the other variant name the same words (rule R87), so a row of format `SB` is read here
as the `MB` row that the byte also is (assumption 2). -/
def decodeTableWord (nbits w : Nat) : Option Instr :=
  match decode Config.resetVariant [tableByte nbits w] with
  | .ok (i, _) => some i
  | .error _ => none

end Sys2Proof
end

