-- ==== Sys2Proof/Machine/State.lean ====
section
/-! DEFINITION. The state of one instance, of its surroundings as the model holds them, and the reasons
a step can stop (rules R16, R20 to R37). -/

namespace Sys2Proof.Machine

/-- `pst`, the pause-stage: one of 0, 1, 2 and no other value (rule R23). Its value is the number of
further data bytes that belong to the pause sequence. -/
inductive PauseStage
  | zero | one | two
deriving DecidableEq, Repr

/-- `phase`: where the block is in its lifecycle (rule R27). -/
inductive Phase
  | setup | running | stopped
deriving DecidableEq, Repr

/-- KeyEvent: `code`, `pressed` (rules R19, R82). -/
structure KeyEvent where
  code : Byte
  pressed : Bool
deriving DecidableEq, Repr

/-- A transaction at the Key-Event Sink, interface EV (rules R9, R150). -/
inductive SinkTx
  | reportKey (code : Byte) (pressed : Bool)
  | sync
deriving DecidableEq, Repr

/-- A condition raised by a rule (rules R16, R170). The only one is `ConfigError`, with the phase it
was raised in (rules R140, R143). -/
inductive Condition
  | configError (phase : Phase)
deriving DecidableEq, Repr

/-- What `service` returns (rules R174, R178, R181). -/
inductive ServiceResult
  | handled | notHandled
deriving DecidableEq, Repr

/-- What the serial link does at one moment of a run: deliver a byte, or let the block and its host
make one move first. The list of these in `State.line` says which agent moves next (assumption 4). -/
inductive Arrival
  | byte (b : Byte)
  | gap
deriving DecidableEq, Repr

/-- What the serial link does after the moments listed in `State.line`. The supply of bytes need not end:
decision D11 and entry U6 admit the run in which `service` never returns. The three forms are the model's
(DESIGN CHOICE, assumption 20). -/
inductive Beyond
  /-- No byte comes any more. -/
  | silent
  /-- These moments come, over and over, first to last. -/
  | repeating (moments : List Arrival)
  /-- The moments `n`, `n + 1`, … of the free supply `Config.freeByte` come, without end. -/
  | free (n : Nat)
deriving DecidableEq, Repr

/-- `TABLE` as a list of (index, entry) pairs: indices below 256, strictly rising, no entry 0.
An index that is not listed reads as 0, the reset value (rule R34). -/
abbrev Memory := List Host.Cell

/-- The stops of the model. Each is a "no step" of rule R16: the operation is not enabled in that
phase and the spec gives it no transition. -/
inductive Fault
  /-- `feed` outside `Running` (rule R160, decision D8). Raised by every instruction's meaning. Safe:
  the model stops where the spec says no byte can exist. -/
  | feedNotEnabled (phase : Phase)
  /-- `enable` outside `Setup` (rules R160, R161, decision D6). Raised by `opEnable`. Safe: no step. -/
  | enableNotAdmitted (phase : Phase)
  /-- `service` in `Stopped`: the handler is detached (rules R160, R178). Raised by `opService`.
  Safe: no step. -/
  | handlerDetached
deriving DecidableEq, Repr

/-- Instructions to which no meaning is given. -/
inductive Refusal
  /-- An instruction that has no meaning in the model yet. Raised by no arm of `exec`. Safe. -/
  | notModelled (mnemonic : String)
  /-- An instruction of the format that the instance's `VARIANT` does not select (rule R87): the
  instance has no such instruction and the decoder never gives it. Raised by every instruction's
  meaning. Safe. -/
  | otherVariant
deriving DecidableEq, Repr

/-- The state: the six elements of rule R20, the two parameters of rule R10, and the model's record of
what passed the interfaces and of what is still to come (rules R9, R16, R24). -/
structure State where
  /-- `VARIANT`, a parameter: no operation writes it (rules R10, R163). -/
  variant : Variant
  /-- `PAUSE_ID`, a parameter: no operation writes it (rule R10). -/
  pauseId : Byte
  /-- `brk`, the pending-break flag (rule R21). -/
  brk : Bool
  /-- `ext`, the pending-extended flag (rule R22). -/
  ext : Bool
  /-- `pst`, the pause-stage (rule R23). -/
  pst : PauseStage
  /-- `TABLE` (rule R25). -/
  table : Memory
  /-- `phase` (rule R27). -/
  phase : Phase
  /-- `OUT`, the trace of sink transactions, oldest first (rules R20, R28). -/
  out : List SinkTx
  /-- The faults recorded so far, oldest first (rule R16: "the model records the fault"). -/
  faults : List Condition
  /-- What each completed `service` returned, oldest first (rules R178, R181). -/
  results : List ServiceResult
  /-- Whether an invocation of `service` is in its drain loop (rule R178). -/
  inService : Bool
  /-- The bytes waiting at the Byte Source, oldest first: the answer of `has_data()` and the bytes
  `read_byte()` gives (rules R9, R32). -/
  rx : List Byte
  /-- What the serial link will deliver first, in arrival order (rules R24, R54). -/
  line : List Arrival
  /-- What the serial link will deliver after that: nothing, or bytes without end (rule R178, decision
  D11). -/
  beyond : Beyond
  /-- The operations the host will perform, in order (rules R8, R202). -/
  ops : List HostOp
deriving DecidableEq, Repr

/-- The three outcomes of a step of this machine. -/
abbrev Result := Host.Outcome State Fault Refusal

/-- A fresh instance of the given variant and pause identifier: decoder `Idle`, every entry 0, phase
`Setup`, `OUT` empty (rules R33, R34, R35). Nothing has happened at its interfaces. -/
def State.resetOf (v : Variant) (p : Byte) : State where
  variant := v
  pauseId := p
  brk := false
  ext := false
  pst := .zero
  table := []
  phase := .setup
  out := []
  faults := []
  results := []
  inService := false
  rx := []
  line := []
  beyond := .silent
  ops := []

/-- The machine right after reset: the instance of `Config.resetVariant` and the unknown
`Config.pauseId` (assumptions 1 and 3). -/
def State.reset : State := State.resetOf Config.resetVariant Config.pauseId

end Sys2Proof.Machine
end

