-- ==== Sys2Proof/Machine/Ops.lean ====
section
/-! DEFINITION. The named operations over the table, the traces, the Byte Source and the phase. -/

namespace Sys2Proof.Machine

/-- `TABLE_DEFAULT` (rule R11): what an index that is not listed reads as (rule R34). -/
def tableDefault : Byte := 0#8

/-- The entry listed under an index, or `TABLE_DEFAULT`. -/
def Memory.readAt : Memory → Nat → Byte
  | [], _ => tableDefault
  | (a, v) :: rest, k => if a = k then v else Memory.readAt rest k

/-- `MemRead(i, 1)`, that is `TABLE[i]`: one entry, total over all indices (rules R50, R56). -/
def Memory.read (m : Memory) (i : Byte) : Byte := m.readAt i.toNat

/-- The canonical table that holds the given entries from the given index upwards. -/
def Memory.ofList : Nat → List Byte → Memory
  | _, [] => []
  | a, v :: vs => if v = tableDefault then Memory.ofList (a + 1) vs else (a, v) :: Memory.ofList (a + 1) vs

/-- `MemWrite(0, 256, entries)`: all 256 entries are replaced in one step (rules R15, R56). -/
def Memory.ofEntries (entries : Vector Byte 256) : Memory := Memory.ofList 0 entries.toList

/-- The indices from `lo` on are strictly rising and below 256, and no entry is `TABLE_DEFAULT`. -/
def Memory.wfFrom : Nat → Memory → Bool
  | _, [] => true
  | lo, (a, v) :: rest => decide (lo ≤ a) && decide (a < 256) && (v != tableDefault) && Memory.wfFrom (a + 1) rest

/-- The canonical form of `TABLE`. -/
def Memory.wf (m : Memory) : Bool := m.wfFrom 0

/-- `lookup(raw_id)`: pure and total (rules R57, R141). -/
def State.lookup (s : State) (rawId : Byte) : Byte := s.table.read rawId

/-- The frame of one event, in this order (rules R82, R150). -/
def frame (e : KeyEvent) : List SinkTx := [.reportKey e.code e.pressed, .sync]

/-- `emit(code, pressed)`: appends one frame to `OUT`; the sink always accepts (rules R150, R153). -/
def State.emit (s : State) (e : KeyEvent) : State := { s with out := s.out ++ frame e }

/-- `raise`: taking a fault. The step ends, the fault is recorded, nothing else changes; there is no
saved pc, no status, no handler address and nothing to return to (rules R16, R143, R175, R180). -/
def State.raise (s : State) (c : Condition) : State := { s with faults := s.faults ++ [c] }

/-- Writes `phase` (rules R161, R162). -/
def State.setPhase (s : State) (p : Phase) : State := { s with phase := p }

/-- Replaces the whole table (rules R56, R140). -/
def State.setTable (s : State) (entries : Vector Byte 256) : State :=
  { s with table := Memory.ofEntries entries }

/-- The block's six state elements at their reset values (rule R200). The parameters, the model's
record of faults and results, and the surroundings are not the block's (assumption 7). -/
def State.clear (s : State) : State :=
  { s with brk := false, ext := false, pst := .zero, table := [], phase := .setup, out := [] }

/-- `has_data()`: the Byte Source has a byte, and reception is enabled (rules R176, R178). -/
def State.hasData (s : State) : Bool := s.phase == .running && !s.rx.isEmpty

/-- Entry to the handler: nothing of the block is saved and nothing of it changes (rule R180). -/
def State.enterHandler (s : State) : State := { s with inService := true }

/-- Return from the handler with `Handled`: nothing is restored (rule R181). -/
def State.leaveHandler (s : State) : State :=
  { s with inService := false, results := s.results ++ [.handled] }

/-- `service` read no byte and returns `NotHandled`: no state of the block changes (rule R174). -/
def State.notHandled (s : State) : State := { s with results := s.results ++ [.notHandled] }

/-- A byte arrives at the Byte Source, behind every earlier one (rules R54, R179). -/
def State.receive (s : State) (b : Byte) : State := { s with rx := s.rx ++ [b] }

/-- `read_byte()` has consumed a byte; `rest` is what is left (rules R57, R178). -/
def State.setRx (s : State) (rest : List Byte) : State := { s with rx := rest }

/-- The serial link's next moments, and what comes after them. -/
def State.setLine (s : State) (rest : List Arrival) (beyond : Beyond) : State :=
  { s with line := rest, beyond := beyond }

/-- The host's next operations. -/
def State.setOps (s : State) (rest : List HostOp) : State := { s with ops := rest }

/-- What one `feed` gives: the event it returns, if any, and the state after it (rule R100). -/
structure Fed where
  event : Option KeyEvent
  state : State
deriving DecidableEq, Repr

/-- Admission of `feed`: only while `phase = Running` (rules R100, R130, R160), and only in the variant
that selects the instruction's format (rule R87). The event is not used: emission is part of `feed`
(rule R178). -/
def admitFeed (v : Variant) (s : State) (f : State → Fed) : Result :=
  if s.phase = .running then
    if s.variant = v then .next (f s).state else .refused .otherVariant
  else .fault (.feedNotEnabled s.phase)

/-- The next byte of the Byte Source as an instruction, and the state with that byte consumed: one
byte per `feed`, consumed exactly once, in arrival order (rules R24, R178). -/
def State.fetch (s : State) : Option (Instr × State) :=
  if s.hasData then
    match decode s.variant s.rx with
    | .ok (i, rest) => some (i, s.setRx rest)
    | .error _ => none
  else none

end Sys2Proof.Machine
end

