-- ==== Sys2Proof/Machine/Flags.lean ====
section
/-! DEFINITION. The decoder's three fields: what sets them and what consumes them (rules R21 to R23). -/

namespace Sys2Proof.Machine

/-- `brk <- 1` (rule R102). -/
def State.setBrk (s : State) : State := { s with brk := true }

/-- `ext <- 1` (rule R103). -/
def State.setExt (s : State) : State := { s with ext := true }

/-- `pst <- 2` (rule R104). -/
def State.startPause (s : State) : State := { s with pst := .two }

/-- `pst <- 1`: a data byte absorbed at `pst == 2` (rule R106). -/
def State.absorbPause (s : State) : State := { s with pst := .one }

/-- Resolution step 1: `pst <- 0` if it was 1, else nothing (rule R107). -/
def State.consumePause (s : State) : State :=
  { s with pst := if s.pst = .one then .zero else s.pst }

/-- Resolution step 2: `ext <- 0` (rule R108). -/
def State.consumeExt (s : State) : State := { s with ext := false }

/-- Resolution step 4: `brk <- 0` (rule R110). -/
def State.consumeBrk (s : State) : State := { s with brk := false }

/-- Resolution step 4: `pressed` is `brk == 0` (rule R110). -/
def State.pressed (s : State) : Bool := !s.brk

/-- `Idle`: no flag and no pause stage pending (rules R19, R26). -/
def State.idle (s : State) : Bool := !s.brk && !s.ext && s.pst == .zero

end Sys2Proof.Machine
end

