-- ==== Sys2Proof/Machine/Operands.lean ====
section
/-! DEFINITION. Operand assembly: the index of the lookup (rules R80, R81, R107, R108). -/

namespace Sys2Proof.Machine

/-- `EXT_BIT` (rule R11). -/
def extBit : Byte := 0x80#8

/-- Resolution step 1, the working byte: `PAUSE_ID` in place of `d` when `pst == 1` (rule R107). -/
def substPause (s : State) (d : Byte) : Byte := if s.pst = .one then s.pauseId else d

/-- Resolution step 2, the working byte: bit 7 set when `ext == 1` (rule R108). -/
def markExtended (s : State) (k : Byte) : Byte := if s.ext then k ||| extBit else k

/-- The index of a data byte, from the state before the step: first the pause substitution, then the
extended marking (rule R80). -/
def mbIndex (s : State) (d : Byte) : Byte := markExtended s (substPause s d)

/-- The index of a single-byte instruction: `zext_8(i)` (rule R81). -/
def sbIndex (i : BitVec 7) : Byte := i.setWidth 8

end Sys2Proof.Machine
end

