-- ==== Sys2Proof/Machine/Multibyte.lean ====
section
/-! DEFINITION. The instructions of the multi-byte variant (rules R100 to R111). -/

namespace Sys2Proof.Machine

/-- `OVR` (rule R101): discarded in every state. -/
def feedOvr (s : State) : Fed := ⟨none, s⟩

/-- `BRK` (rule R102). -/
def feedBrk (s : State) : Fed := ⟨none, s.setBrk⟩

/-- `EXT` (rule R103). -/
def feedExt (s : State) : Fed := ⟨none, s.setExt⟩

/-- `PAU` (rule R104). -/
def feedPau (s : State) : Fed := ⟨none, s.startPause⟩

/-- The event of a resolved data byte: the entry at the assembled index, release if `brk` is pending
(rules R107 to R110). -/
def dataEvent (s : State) (d : Byte) : KeyEvent := ⟨s.lookup (mbIndex s d), s.pressed⟩

/-- `DATA(d)` (rule R105): absorbed at `pst == 2` (rule R106), else resolved by steps 1 to 5. An event
with code 0 is emitted like any other (rules R111, R152). -/
def feedData (d : Byte) (s : State) : Fed :=
  if s.pst = .two then ⟨none, s.absorbPause⟩
  else ⟨some (dataEvent s d), s.consumePause.consumeExt.consumeBrk.emit (dataEvent s d)⟩

/-- `MB.OVR` (rule R101). -/
def execMbOvr (s : State) : Result := admitFeed .multiByte s feedOvr

/-- `MB.BRK` (rule R102). -/
def execMbBrk (s : State) : Result := admitFeed .multiByte s feedBrk

/-- `MB.EXT` (rule R103). -/
def execMbExt (s : State) : Result := admitFeed .multiByte s feedExt

/-- `MB.PAU` (rule R104). -/
def execMbPau (s : State) : Result := admitFeed .multiByte s feedPau

/-- `MB.DATA d` (rule R105). -/
def execMbData (d : Byte) (s : State) : Result := admitFeed .multiByte s (feedData d)

end Sys2Proof.Machine
end

