-- ==== Sys2Proof/Machine/Singlebyte.lean ====
section
/-! DEFINITION. The instructions of the single-byte variant (rules R130 to R133). -/

namespace Sys2Proof.Machine

/-- The one step of this variant: look up the identifier and emit; no decoder state is read or written
(rules R130, R131, R132). -/
def feedKey (i : BitVec 7) (pressed : Bool) (s : State) : Fed :=
  ⟨some ⟨s.lookup (sbIndex i), pressed⟩, s.emit ⟨s.lookup (sbIndex i), pressed⟩⟩

/-- `MAKE(i)` (rule R131). -/
def feedMake (i : BitVec 7) (s : State) : Fed := feedKey i true s

/-- `BREAK(i)` (rule R132). -/
def feedBreak (i : BitVec 7) (s : State) : Fed := feedKey i false s

/-- `SB.MAKE i` (rule R131). -/
def execSbMake (i : BitVec 7) (s : State) : Result := admitFeed .singleByte s (feedMake i)

/-- `SB.BREAK i` (rule R132). -/
def execSbBreak (i : BitVec 7) (s : State) : Result := admitFeed .singleByte s (feedBreak i)

end Sys2Proof.Machine
end

