-- ==== Sys2Proof/Machine/Dispatch.lean ====
section
/-! DEFINITION. One arm per instruction. -/

namespace Sys2Proof.Machine

def exec (i : Instr) (s : State) : Host.Outcome State Fault Refusal :=
  match i with
  | .mbOvr => Sys2Proof.Machine.execMbOvr s
  | .mbBrk => Sys2Proof.Machine.execMbBrk s
  | .mbExt => Sys2Proof.Machine.execMbExt s
  | .mbPau => Sys2Proof.Machine.execMbPau s
  | .mbData d => Sys2Proof.Machine.execMbData d s
  | .sbMake k => Sys2Proof.Machine.execSbMake k s
  | .sbBreak k => Sys2Proof.Machine.execSbBreak k s

end Sys2Proof.Machine
end

