-- ==== Sys2Proof/Machine/HostOps.lean ====
section
/-! DEFINITION. The operations of the host and their admission by phase (rules R140, R143, R160 to R162,
R178, R200). -/

namespace Sys2Proof.Machine

/-- `reset` (rule R200): admitted in every phase; emits nothing (rule R154). -/
def opReset (s : State) : Result := .next s.clear

/-- `configure(entries)` (rules R140, R143): replaces the table in `Setup`; elsewhere raises
`ConfigError`, which is recorded and changes nothing else (assumption 6). -/
def opConfigure (entries : Vector Byte 256) (s : State) : Result :=
  if s.phase = .setup then .next (s.setTable entries) else .next (s.raise (.configError s.phase))

/-- `enable` (rule R161): no step outside `Setup`. -/
def opEnable (s : State) : Result :=
  if s.phase = .setup then .next (s.setPhase .running) else .fault (.enableNotAdmitted s.phase)

/-- `disable` (rule R162): from any phase. -/
def opDisable (s : State) : Result := .next (s.setPhase .stopped)

/-- `service` (rule R178), up to the head of its drain loop: no step in `Stopped`, `NotHandled` when
there is nothing to read, else the loop begins. The loop itself is `action`, one byte a step. -/
def opService (s : State) : Result :=
  if s.phase = .stopped then .fault .handlerDetached
  else if s.hasData then .next s.enterHandler
  else .next s.notHandled

/-- The operation the host performs. -/
def execHost (op : HostOp) (s : State) : Result :=
  match op with
  | .reset => opReset s
  | .configure entries => opConfigure entries s
  | .enable => opEnable s
  | .disable => opDisable s
  | .service => opService s

end Sys2Proof.Machine
end

