-- ==== Sys2Proof/Machine/Schedule.lean ====
section
/-! DEFINITION. Which agent moves next (rules R8, R176 to R182), decided by plain data in the state. -/

namespace Sys2Proof.Machine

/-- A move: feed an instruction in a state whose byte is already consumed, or any other move, with its
outcome. -/
inductive Move
  | feed (i : Instr) (s : State)
  | other (r : Result)
deriving Repr

/-- A moment of the free supply (assumption 20). -/
def freeMoment (n : Nat) : Arrival :=
  match Config.freeByte n with
  | some b => .byte b
  | none => .gap

/-- The link's next moment, and the state with that moment used up: the listed ones first, then those
beyond them, which may have no end (assumption 20). -/
def State.moment (s : State) : Option (Arrival × State) :=
  match s.line with
  | m :: rest => some (m, s.setLine rest s.beyond)
  | [] =>
    match s.beyond with
    | .silent => none
    | .repeating [] => none
    | .repeating (m :: ms) => some (m, s.setLine [] (.repeating (ms ++ [m])))
    | .free n => some (freeMoment n, s.setLine [] (.free (n + 1)))

/-- The byte that the link delivers now, and the state with that moment used up: only while reception is
enabled, since no byte can arrive otherwise (rules R27, R160). -/
def State.arriving (s : State) : Option (Byte × State) :=
  if s.phase = .running then
    match s.moment with
    | some (.byte b, s') => some (b, s')
    | _ => none
  else none

/-- The state in which the block or its host moves: the gap that let them move is used up. -/
def State.takeGap (s : State) : State :=
  if s.phase = .running then
    match s.moment with
    | some (.gap, s') => s'
    | _ => s
  else s

/-- The move of the block or its host. In the drain loop (rule R178): the next byte is read and fed, or
`has_data()` is false and the handler returns `Handled`. Nothing bounds the loop: while bytes keep coming
it keeps feeding (decision D11). No host operation and no second `service` comes between (rule R182).
Outside it: the host's next operation; with none pending, the interrupt of a waiting byte invokes
`service` (rules R176, R177); with no byte either, nothing happens (rule R187). -/
def action (s : State) : Move :=
  if s.inService then
    match s.fetch with
    | some (i, s') => .feed i s'
    | none => .other (.next s.leaveHandler)
  else
    match s.ops with
    | op :: rest => .other (execHost op (s.setOps rest))
    | [] => if s.hasData then .other (opService s) else .other (.next s)

/-- The next move of the machine. -/
def nextMove (s : State) : Move :=
  match s.arriving with
  | some (b, s') => .other (.next (s'.receive b))
  | none => action s.takeGap

/-- The state in which the next step feeds `b`: reception enabled, the drain loop entered, `b` the next
byte of the Byte Source, and no arrival before it. -/
def State.withNextByte (s : State) (b : Byte) : State :=
  { s with phase := .running, inService := true, rx := b :: s.rx, line := .gap :: s.line }

end Sys2Proof.Machine
end

