-- ==== Sys2Proof/Machine/Step.lean ====
section
/-! DEFINITION. One step of the machine: one move of one agent (rules R8, R15, R178). -/

namespace Sys2Proof.Machine

/-- One step: the next move; where it is a `feed`, the instruction's meaning. -/
def step (s : State) : Host.Outcome State Fault Refusal :=
  match nextMove s with
  | .feed i s' => exec i s'
  | .other r => r

/-- The state whose very next step feeds the byte of a table word (assumption 5). -/
def State.withFetchWord (s : State) (nbits w : Nat) : State := s.withNextByte (tableByte nbits w)

end Sys2Proof.Machine
end

