-- ==== Sys2Proof/Machine/Feed.lean ====
section
/-! DEFINITION. `feed` as one function of the byte (rules R100, R130, R134): the spec's contract
`feed(raw) -> Option<KeyEvent>`, and its repetition over a byte sequence. -/

namespace Sys2Proof.Machine

/-- What feeding an instruction's byte gives, where `feed` is admitted. -/
def feedInstr (i : Instr) (s : State) : Fed :=
  match i with
  | .mbOvr => feedOvr s
  | .mbBrk => feedBrk s
  | .mbExt => feedExt s
  | .mbPau => feedPau s
  | .mbData d => feedData d s
  | .sbMake k => feedMake k s
  | .sbBreak k => feedBreak k s

/-- `feed(b)` in the instance's variant. -/
def feed (b : Byte) (s : State) : Fed := feedInstr (decodeByte s.variant b) s

/-- The state after a byte sequence has been fed in arrival order, one byte at a time (rules R17, R24). -/
def feedAll : List Byte → State → State
  | [], s => s
  | b :: bs, s => feedAll bs (feed b s).state

/-- The events a byte sequence yields, in order: none or one per byte (rules R36, R151). -/
def eventsOf : List Byte → State → List KeyEvent
  | [], _ => []
  | b :: bs, s => (feed b s).event.toList ++ eventsOf bs (feed b s).state

/-- The frames of a list of events, each with its own `sync` (rules R150, R151). -/
def framesOf (es : List KeyEvent) : List SinkTx := es.flatMap frame

/-- The events a well-formed unit stands for, from `Idle` (the last column of rule R76's table). -/
def unitEvents (s : State) : Unit76 → List KeyEvent
  | .keyDown d => [⟨s.lookup d, true⟩]
  | .keyUp d => [⟨s.lookup d, false⟩]
  | .xKeyDown d => [⟨s.lookup (d ||| 0x80#8), true⟩]
  | .xKeyUp d => [⟨s.lookup (d ||| 0x80#8), false⟩]
  | .pauseKey _ _ => [⟨s.lookup s.pauseId, true⟩]
  | .overrun => []

end Sys2Proof.Machine
end

