-- ==== Sys2Proof/WellFormed.lean ====
section
/-! DEFINITION. Which instructions and which written units are well formed (rules R71, R76, R86, R105). -/

namespace Sys2Proof

/-- The operand of `MB.DATA` is any value that is not a sentinel (rule R105). The operand of `SB.MAKE`
and `SB.BREAK` is any 7-bit value (rule R74), which its type says. -/
def Instr.wellFormed : Instr → Bool
  | .mbOvr => true
  | .mbBrk => true
  | .mbExt => true
  | .mbPau => true
  | .mbData d => !isSentinel d
  | .sbMake _ => true
  | .sbBreak _ => true

/-- An instruction of the given variant: well formed, and of the format that variant selects
(rule R87). -/
def Instr.wellFormedIn (v : Variant) (i : Instr) : Bool := i.variant == v && i.wellFormed

/-- In each unit of rule R76 the operands must be data bytes (rule R86). -/
def Unit76.wellFormed : Unit76 → Bool
  | .keyDown d => !isSentinel d
  | .keyUp d => !isSentinel d
  | .xKeyDown d => !isSentinel d
  | .xKeyUp d => !isSentinel d
  | .pauseKey d1 d2 => !isSentinel d1 && !isSentinel d2
  | .overrun => true

end Sys2Proof
end

