-- ==== Sys2Proof/Safety.lean ====
section
/-! DEFINITION. What counts as a good state and a good run, in the terms the claims use (rules R20, R29,
R36, R150, R161). -/

namespace Sys2Proof.Machine

/-- `OUT` is a sequence of whole frames: a `report_key`, then its own `sync` (rules R82, R150). -/
def framed : List SinkTx → Bool
  | [] => true
  | .reportKey _ _ :: .sync :: rest => framed rest
  | _ => false

/-- The invariant of the machine. -/
structure Inv (s : State) : Prop where
  /-- The table is in canonical form. -/
  table : s.table.wf = true
  /-- The sink has received whole frames only (rule R150). -/
  out : framed s.out = true
  /-- The drain loop runs only while reception is enabled (rules R160, R178). -/
  handler : s.inService = true → s.phase = .running
  /-- The single-byte variant has no decoder state (rule R29). -/
  single : s.variant = .singleByte → s.brk = false ∧ s.ext = false ∧ s.pst = .zero
  /-- Nothing between `reset` and `enable` writes the decoder's fields or the sink (rule R161). -/
  fresh : s.phase = .setup → s.brk = false ∧ s.ext = false ∧ s.pst = .zero ∧ s.out = []

end Sys2Proof.Machine
end

