-- ==== Sys2Proof/Certificates/Slice0/Obligations.lean ====
section
/-! DEFINITION. The statements for the provers. -/

open Sys2Proof Sys2Proof.Machine

/-! ### Encoding -/

/-- No bit of an encoding is dropped: decoding the byte of a well-formed instruction, in the variant of
its format, gives the instruction with its operand, and the rest of the stream. -/
def Obligations.DecodeOfEncodeGivesBack : Prop :=
  ∀ (i : Instr) (rest : List Byte), i.wellFormed = true →
    decode i.variant (encode i ++ rest) = .ok (i, rest)

/-- Rule R70: one byte per instruction; each byte value selects exactly one operation in each variant;
no byte is illegal and none makes `feed` fault. -/
def Obligations.EveryByteSelectsExactlyOneOperation : Prop :=
  (∀ i : Instr, (encode i).length = 1) ∧
  (∀ (v : Variant) (b : Byte) (rest : List Byte),
    decode v (b :: rest) = .ok (decodeByte v b, rest) ∧
    (decodeByte v b).wellFormedIn v = true ∧ encode (decodeByte v b) = [b] ∧
    ∀ j : Instr, j.wellFormedIn v = true → encode j = [b] → j = decodeByte v b) ∧
  ∀ (s : State) (b : Byte), s.phase = .running → ∃ t, exec (decodeByte s.variant b) s = .next t

/-- Rule R73: the data bytes are exactly the union of the twelve disjoint patterns, 252 values. -/
def Obligations.TwelvePatternsPartitionTheDataBytes : Prop :=
  (∀ b : Byte, (dataRows.filter (fun r => r.hits b)).length = if isSentinel b then 0 else 1) ∧
  dataRows.length = 12 ∧
  ((List.range 256).filter (fun n => !isSentinel (BitVec.ofNat 8 n))).length = 252

/-- Rule R87: within one format each byte matches exactly one of the 18 rows, the row of the mnemonic
that the ordered tests of rules R71 and R74 select. -/
def Obligations.OpcodeRowsAgreeWithTheOrderedTests : Prop :=
  ∀ (v : Variant) (b : Byte),
    (opcodeRows.filter (fun r => r.variant == v && r.hits b)).map Row.mnemonic
      = [(decodeByte v b).mnemonic]

/-- Words written out from the tables of rules R71 and R74 decode to what they stand for. -/
def Obligations.WrittenOutWordsDecode : Prop :=
  decodeByte .multiByte 0b11111111#8 = .mbOvr ∧ decodeByte .multiByte 0b11110000#8 = .mbBrk ∧
  decodeByte .multiByte 0b11100000#8 = .mbExt ∧ decodeByte .multiByte 0b11100001#8 = .mbPau ∧
  decodeByte .multiByte 0b00011100#8 = .mbData 0x1C#8 ∧
  decodeByte .multiByte 0b11111110#8 = .mbData 0xFE#8 ∧
  decodeByte .singleByte 0b00000101#8 = .sbMake 5#7 ∧
  decodeByte .singleByte 0b10000101#8 = .sbBreak 5#7 ∧
  decodeByte .singleByte 0b11111111#8 = .sbBreak 0x7F#7

/-! ### The step -/

/-- In the drain loop, where no byte arrives first, a step consumes the oldest waiting byte and is the
meaning of the instruction it decodes to. That an arrival comes first, and that a gap of the line is used
up by the move it allows, is the model's choice (assumption 4). -/
def Obligations.StepRunsTheDecodedInstruction : Prop :=
  ∀ (s : State) (i : Instr) (b : Byte) (rest : List Byte), s.inService = true → s.phase = .running →
    s.rx = b :: rest → decode s.variant s.rx = .ok (i, rest) →
    (s.arriving = none → step s = exec i { s.takeGap with rx := rest }) ∧
    (s.line = [] → s.beyond = .silent → step s = exec i { s with rx := rest }) ∧
    ∀ l, s.line = .gap :: l → step s = exec i { s with rx := rest, line := l }

/-- Where `feed` is admitted, in the variant of the instruction's format, an instruction completes with
the state of its `feed`. -/
def Obligations.AdmittedInstructionsComplete : Prop :=
  ∀ (i : Instr) (s : State), s.phase = .running → s.variant = i.variant →
    exec i s = .next (feedInstr i s).state

/-- Outside `Running` no instruction has a step. The name of the stop is the model's (assumption 8). -/
def Obligations.NoInstructionRunsUnlessReceptionIsEnabled : Prop :=
  ∀ (i : Instr) (s : State), s.phase ≠ .running → exec i s = .fault (.feedNotEnabled s.phase)

/-- An instruction of the format that `VARIANT` does not select is refused. The refusal is the model's
(assumption 9); the spec never tries such rows. -/
def Obligations.OtherFormatIsRefused : Prop :=
  ∀ (i : Instr) (s : State), s.phase = .running → s.variant ≠ i.variant → exec i s = .refused .otherVariant

/-! ### The multi-byte variant -/

/-- Rule R101: `0xFF` is discarded in every state, and is invisible inside any sequence. -/
def Obligations.OverrunMarkerIsDiscarded : Prop :=
  encode .mbOvr = [0xFF#8] ∧ decodeByte .multiByte 0xFF#8 = .mbOvr ∧
  ∀ s : State, s.phase = .running → s.variant = .multiByte →
    exec .mbOvr s = .next s ∧ (feed 0xFF#8 s).event = none ∧
    ∀ bs cs : List Byte, feedAll (bs ++ 0xFF#8 :: cs) s = feedAll (bs ++ cs) s ∧
      eventsOf (bs ++ 0xFF#8 :: cs) s = eventsOf (bs ++ cs) s

/-- Rule R102: `0xF0` sets `brk` and nothing else; in a pause sequence it makes the pause event a
release. -/
def Obligations.BreakLeadInSetsPendingBreak : Prop :=
  encode .mbBrk = [0xF0#8] ∧ decodeByte .multiByte 0xF0#8 = .mbBrk ∧
  ∀ s : State, s.phase = .running → s.variant = .multiByte →
    exec .mbBrk s = .next { s with brk := true } ∧ (feed 0xF0#8 s).event = none ∧
    (s.brk = true → exec .mbBrk s = .next s) ∧
    ∀ d1 d2 : Byte, isSentinel d1 = false → isSentinel d2 = false →
      (s.pst = .one → eventsOf [0xF0#8, d1] s =
        [⟨s.lookup (if s.ext then s.pauseId ||| 0x80#8 else s.pauseId), false⟩]) ∧
      (s.pst = .two → eventsOf [0xF0#8, d1, d2] s =
        [⟨s.lookup (if s.ext then s.pauseId ||| 0x80#8 else s.pauseId), false⟩])

/-- Rule R103: `0xE0` sets `ext` and nothing else; in a pause sequence it marks the pause identifier. -/
def Obligations.ExtendedLeadInSetsPendingExtended : Prop :=
  encode .mbExt = [0xE0#8] ∧ decodeByte .multiByte 0xE0#8 = .mbExt ∧
  ∀ s : State, s.phase = .running → s.variant = .multiByte →
    exec .mbExt s = .next { s with ext := true } ∧ (feed 0xE0#8 s).event = none ∧
    (s.ext = true → exec .mbExt s = .next s) ∧
    ∀ d1 d2 : Byte, isSentinel d1 = false → isSentinel d2 = false →
      (s.pst = .one → eventsOf [0xE0#8, d1] s = [⟨s.lookup (s.pauseId ||| 0x80#8), !s.brk⟩]) ∧
      (s.pst = .two → eventsOf [0xE0#8, d1, d2] s = [⟨s.lookup (s.pauseId ||| 0x80#8), !s.brk⟩])

/-- Rule R104: `0xE1` sets `pst` to 2 and nothing else; from every state two more data bytes are needed
before an event. -/
def Obligations.PauseLeadInStartsTheSequence : Prop :=
  encode .mbPau = [0xE1#8] ∧ decodeByte .multiByte 0xE1#8 = .mbPau ∧
  ∀ s : State, s.phase = .running → s.variant = .multiByte →
    exec .mbPau s = .next { s with pst := .two } ∧ (feed 0xE1#8 s).event = none ∧
    (s.pst = .two → exec .mbPau s = .next s) ∧
    ∀ d1 d2 : Byte, isSentinel d1 = false → isSentinel d2 = false →
      eventsOf [0xE1#8, d1] s = [] ∧ (eventsOf [0xE1#8, d1, d2] s).length = 1

/-- Rule R105: a data byte is absorbed at `pst` 2 and resolved into one event otherwise, by steps 1 to 5
in order. -/
def Obligations.DataByteIsAbsorbedOrResolved : Prop :=
  ∀ (s : State) (d : Byte), s.phase = .running → s.variant = .multiByte → isSentinel d = false →
    encode (.mbData d) = [d] ∧ decodeByte .multiByte d = .mbData d ∧
    (s.pst = .two → exec (.mbData d) s = .next { s with pst := .one } ∧ (feed d s).event = none) ∧
    (s.pst ≠ .two → ∀ k1 k : Byte, k1 = (if s.pst = .one then s.pauseId else d) →
      k = (if s.ext then k1 ||| 0x80#8 else k1) →
      exec (.mbData d) s = .next { s with
        brk := false, ext := false, pst := .zero,
        out := s.out ++ [.reportKey (s.lookup k) (!s.brk), .sync] } ∧
      (feed d s).event = some ⟨s.lookup k, !s.brk⟩)

/-- Rule R106: at `pst` 2 a data byte only moves `pst` to 1 and its value is not examined; a sentinel
never does so. -/
def Obligations.SecondPauseByteIsAbsorbed : Prop :=
  ∀ s : State, s.phase = .running → s.variant = .multiByte → s.pst = .two →
    (∀ d, isSentinel d = false →
      exec (.mbData d) s = .next { s with pst := .one } ∧ (feed d s).event = none) ∧
    ∀ b, isSentinel b = true → (feed b s).state.pst = .two

/-- Rule R107: at `pst` 1 a data byte is replaced by `PAUSE_ID`, whichever data byte it is, and `pst` is
cleared; at `pst` 0 the byte is itself the working byte. -/
def Obligations.ThirdPauseByteIsReplacedByPauseId : Prop :=
  ∀ (s : State) (d : Byte), s.phase = .running → s.variant = .multiByte → isSentinel d = false →
    (s.pst = .one → substPause s d = s.pauseId ∧
      (∃ t, exec (.mbData d) s = .next t ∧ t.pst = .zero) ∧
      ∀ d', isSentinel d' = false → exec (.mbData d') s = exec (.mbData d) s) ∧
    (s.pst = .zero → substPause s d = d ∧ ∃ t, exec (.mbData d) s = .next t ∧ t.pst = .zero)

/-- Rule R108: with `ext` pending the working byte, raw or substituted, gets bit 7 and keeps bits 6 to 0,
and `ext` is cleared. -/
def Obligations.ExtendedMarkingSetsBitSevenOnly : Prop :=
  ∀ (s : State) (d : Byte), s.phase = .running → s.variant = .multiByte → isSentinel d = false →
    s.ext = true → s.pst ≠ .two →
    (mbIndex s d).getLsbD 7 = true ∧
    (∀ n < 7, (mbIndex s d).getLsbD n = (substPause s d).getLsbD n) ∧
    ((substPause s d).getLsbD 7 = true → mbIndex s d = substPause s d) ∧
    (s.pst = .one → mbIndex s d = s.pauseId ||| 0x80#8) ∧
    ∃ t, exec (.mbData d) s = .next t ∧ t.ext = false

/-- Rule R110: with `brk` pending the event is a release and `brk` is cleared; otherwise it is a press. -/
def Obligations.ReleaseExactlyWhenBreakIsPending : Prop :=
  ∀ (s : State) (d : Byte), s.phase = .running → s.variant = .multiByte → isSentinel d = false →
    s.pst ≠ .two → ∃ t e, exec (.mbData d) s = .next t ∧ (feed d s).event = some e ∧
      (e.pressed = false ↔ s.brk = true) ∧ t.brk = false

/-- Rule R113, which the spec marks as derived: after every `feed` that returns an event the multi-byte
decoder is `Idle`, from whatever state. -/
def Obligations.EveryEventLeavesTheDecoderIdle : Prop :=
  ∀ (s : State) (b : Byte), s.phase = .running → s.variant = .multiByte → (feed b s).event.isSome = true →
    ∃ t, exec (decodeByte .multiByte b) s = .next t ∧ t.idle = true

/-- Rule R114, from its sentence on the independence of the three fields: any sequence of sentinels, in
any order, writes each field as if it stood alone, yields no event, and nothing records the overlap. -/
def Obligations.LeadInsAreIndependentAndLastWriteWins : Prop :=
  ∀ (bs : List Byte) (s : State), s.variant = .multiByte → (∀ b ∈ bs, isSentinel b = true) →
    eventsOf bs s = [] ∧
    feedAll bs s = { s with brk := s.brk || bs.contains 0xF0#8, ext := s.ext || bs.contains 0xE0#8,
                            pst := if bs.contains 0xE1#8 then .two else s.pst }

/-- Rule R76: from `Idle`, a stream of well-formed units yields exactly the events of its units, in
order, sends their frames, and ends in `Idle` with nothing else changed. -/
def Obligations.WellFormedStreamsYieldTheirUnitsEvents : Prop :=
  ∀ (us : List Unit76) (s : State), s.variant = .multiByte → s.idle = true →
    (∀ u ∈ us, u.wellFormed = true) →
    eventsOf (us.flatMap Unit76.bytes) s = us.flatMap (unitEvents s) ∧
    feedAll (us.flatMap Unit76.bytes) s
      = { s with out := s.out ++ framesOf (us.flatMap (unitEvents s)) }

/-- Rule R26's last sentence, which the spec marks as derived: all twelve triples are reachable from
`Idle`. -/
def Obligations.AllTwelveTriplesAreReachable : Prop :=
  ∀ s : State, s.variant = .multiByte → s.idle = true → ∀ (f e : Bool) (p : PauseStage),
    ∃ bs, eventsOf bs s = [] ∧ feedAll bs s = { s with brk := f, ext := e, pst := p }

/-- Rule R117 (a) and (b), which the spec marks as derived: the table cannot tell an extended key from a
plain data byte with bit 7 set. -/
def Obligations.ExtendedKeyCollidesWithBitSevenByte : Prop :=
  ∀ (s : State) (d : Byte), s.variant = .multiByte → s.idle = true → isSentinel d = false →
    isSentinel (d ||| 0x80#8) = false →
    eventsOf [0xE0#8, d] s = eventsOf [d ||| 0x80#8] s ∧
    feedAll [0xE0#8, d] s = feedAll [d ||| 0x80#8] s

/-! ### The single-byte variant -/

/-- Rule R131. -/
def Obligations.MakePressesTheIdentifier : Prop :=
  ∀ (s : State) (i : BitVec 7), s.phase = .running → s.variant = .singleByte →
    encode (.sbMake i) = [0#1 ++ i] ∧ decodeByte .singleByte (0#1 ++ i) = .sbMake i ∧
    exec (.sbMake i) s = .next { s with
      out := s.out ++ [.reportKey (s.lookup ((0#1 ++ i) &&& 0x7F#8)) true, .sync] } ∧
    s.lookup ((0#1 ++ i) &&& 0x7F#8) = s.lookup (i.setWidth 8) ∧
    (feed (0#1 ++ i) s).event = some ⟨s.lookup (i.setWidth 8), true⟩

/-- Rule R132: a make and its break use the same entry; no byte is a sentinel. -/
def Obligations.BreakReleasesTheIdentifier : Prop :=
  ∀ (s : State) (i : BitVec 7), s.phase = .running → s.variant = .singleByte →
    encode (.sbBreak i) = [1#1 ++ i] ∧ decodeByte .singleByte (1#1 ++ i) = .sbBreak i ∧
    exec (.sbBreak i) s = .next { s with
      out := s.out ++ [.reportKey (s.lookup ((1#1 ++ i) &&& 0x7F#8)) false, .sync] } ∧
    s.lookup ((1#1 ++ i) &&& 0x7F#8) = s.lookup (i.setWidth 8) ∧
    (feed (1#1 ++ i) s).event = some ⟨s.lookup (i.setWidth 8), false⟩

/-- Rule R133: the law of the variant, for all bytes; entries 128 to 255 are never read. -/
def Obligations.SingleByteLaw : Prop :=
  ∀ (s : State) (b : Byte), s.phase = .running → s.variant = .singleByte →
    (feed b s).event = some ⟨s.lookup (b &&& 0x7F#8), (b &&& 0x80#8) == 0#8⟩ ∧
    exec (decodeByte .singleByte b) s = .next { s with
      out := s.out ++ [.reportKey (s.lookup (b &&& 0x7F#8)) ((b &&& 0x80#8) == 0#8), .sync] } ∧
    ∀ m : Memory, (∀ k : Byte, k.toNat < 128 → m.read k = s.table.read k) →
      (feed b { s with table := m }).event = (feed b s).event

/-! ### Frames -/

/-- A sentinel changes its own field of the decoder at most: every entry of the table, the sink's trace,
the phase, the parameters, the records and the surroundings stay. -/
def Obligations.SentinelsChangeOnlyTheirOwnField : Prop :=
  ∀ (i : Instr) (s t : State), i ∈ [.mbOvr, .mbBrk, .mbExt, .mbPau] → exec i s = .next t →
    (∀ k, t.lookup k = s.lookup k) ∧ t.table = s.table ∧ t.out = s.out ∧ t.phase = s.phase ∧
    t.variant = s.variant ∧ t.pauseId = s.pauseId ∧ t.faults = s.faults ∧ t.results = s.results ∧
    t.inService = s.inService ∧ t.rx = s.rx ∧ t.line = s.line ∧ t.beyond = s.beyond ∧
    t.ops = s.ops ∧
    (i ≠ .mbBrk → t.brk = s.brk) ∧ (i ≠ .mbExt → t.ext = s.ext) ∧ (i ≠ .mbPau → t.pst = s.pst)

/-- An instruction that can yield an event changes the decoder's fields and the sink's trace at most; at
`pst` 2 a data byte leaves `brk`, `ext` and the trace; `SB.MAKE` and `SB.BREAK` leave all three fields. -/
def Obligations.EventInstructionsChangeOnlyDecoderAndTrace : Prop :=
  ∀ (i : Instr) (s t : State), i ∉ [.mbOvr, .mbBrk, .mbExt, .mbPau] → exec i s = .next t →
    (∀ k, t.lookup k = s.lookup k) ∧ t.table = s.table ∧ t.phase = s.phase ∧
    t.variant = s.variant ∧ t.pauseId = s.pauseId ∧ t.faults = s.faults ∧ t.results = s.results ∧
    t.inService = s.inService ∧ t.rx = s.rx ∧ t.line = s.line ∧ t.beyond = s.beyond ∧
    t.ops = s.ops ∧
    (t.out = s.out ∨ ∃ e, t.out = s.out ++ frame e) ∧
    (i.variant = .multiByte → s.pst = .two → t.brk = s.brk ∧ t.ext = s.ext ∧ t.out = s.out) ∧
    (i.variant = .singleByte → t.brk = s.brk ∧ t.ext = s.ext ∧ t.pst = s.pst)

/-- Rule R151: each event has its frame in `OUT`, in the order of the bytes, none merged, none dropped,
and no byte sequence adds anything else. -/
def Obligations.TraceIsTheFramesOfTheEvents : Prop :=
  ∀ (bs : List Byte) (s : State),
    (feedAll bs s).out = s.out ++ framesOf (eventsOf bs s) ∧ (eventsOf bs s).length ≤ bs.length

/-- Rule R152: an event with code 0 is emitted like any other, in both variants. -/
def Obligations.UnmappedKeyIsForwarded : Prop :=
  ∀ (s : State) (b : Byte) (p : Bool), s.phase = .running → (feed b s).event = some ⟨0#8, p⟩ →
    ∃ t, exec (decodeByte s.variant b) s = .next t ∧ t.out = s.out ++ [.reportKey 0#8 p, .sync]

/-- `PAUSE_ID` is read only by a data byte at `pst` 1: any other instruction, and any instruction at `pst`
0 or 2, gives the same step with another value of it. -/
def Obligations.PauseIdIsReadOnlyAtPauseStageOne : Prop :=
  ∀ (i : Instr) (s t : State) (p : Byte), (∀ d, i ≠ .mbData d) ∨ s.pst ≠ .one →
    exec i s = .next t → exec i { s with pauseId := p } = .next { t with pauseId := p }

/-! ### The table -/

/-- `configure` in `Setup`: entry `i` of the array is what index `i` reads, for all 256; nothing else
changes. -/
def Obligations.ConfigureReplacesTheWholeTable : Prop :=
  ∀ (s : State) (e : Vector Byte 256), s.phase = .setup →
    ∃ t, execHost (.configure e) s = .next t ∧ t = { s with table := t.table } ∧ t.table.wf = true ∧
      ∀ i : Byte, t.lookup i = e[i.toNat]'i.isLt

/-- `configure` outside `Setup`: the fault is recorded with the phase, all 256 entries stay and nothing
else changes. That the run goes on after the record is the model's choice (assumption 6). -/
def Obligations.LateConfigureRecordsConfigErrorOnly : Prop :=
  ∀ (s : State) (e : Vector Byte 256), s.phase ≠ .setup →
    execHost (.configure e) s = .next { s with faults := s.faults ++ [.configError s.phase] }

/-- Rule R144: `configure` any number of times in `Setup`, then `enable`: every lookup sees the last one,
or, with none, what the table held (0 after reset); `enable` does not check; repeating is idempotent. -/
def Obligations.LastConfigureBeforeEnableIsSeen : Prop :=
  (∀ (es : List (Vector Byte 256)) (s : State), s.phase = .setup → s.inService = false →
    ∃ t, Host.Core.run core (es.length + 1)
        { s with ops := es.map HostOp.configure ++ [HostOp.enable] } = .next t ∧
      t.phase = .running ∧ t.ops = [] ∧
      (∀ e, es.getLast? = some e → ∀ i : Byte, t.lookup i = e[i.toNat]'i.isLt) ∧
      (es = [] → t.table = s.table) ∧
      (es = [] → s.table = (State.resetOf s.variant s.pauseId).table → ∀ i, t.lookup i = 0#8)) ∧
  ∀ (e : Vector Byte 256) (s t : State), s.phase = .setup → execHost (.configure e) s = .next t →
    execHost (.configure e) t = .next t

/-- A law of the model's representation of the table, which is its choice (assumption 15): the canonical
form is canonical, tables that read alike are equal data. -/
def Obligations.CanonicalTablesThatReadAlikeAreEqual : Prop :=
  ∀ m n : Memory, m.wf = true → n.wf = true → (∀ i : Byte, m.read i = n.read i) → m = n

/-- Rule R36 (e): no step that stays in `Running` changes the table. -/
def Obligations.TableIsConstantWhileRunning : Prop :=
  ∀ s t : State, step s = .next t → s.phase = .running → t.phase = .running → t.table = s.table

/-! ### The lifecycle -/

/-- Rule R161: `enable` starts reception from `Setup` and touches nothing else; the decoder it starts is
`Idle`; elsewhere it has no step. -/
def Obligations.EnableStartsReceptionFromSetup : Prop :=
  ∀ s : State,
    (s.phase = .setup → execHost .enable s = .next { s with phase := .running } ∧
      (Inv s → s.idle = true)) ∧
    (s.phase ≠ .setup → ∀ t, execHost .enable s ≠ .next t)

/-- Rule R162: `disable` stops the block from every phase; after it nothing is fed or emitted and the
fields and the table keep their values, until `reset`. -/
def Obligations.DisableStopsUntilReset : Prop :=
  (∀ s : State, ∃ t, execHost .disable s = .next t ∧ t.phase = .stopped ∧ t.out = s.out ∧
    t.brk = s.brk ∧ t.ext = s.ext ∧ t.pst = s.pst ∧ t.table = s.table) ∧
  ∀ s t : State, s.phase = .stopped → step s = .next t →
    (t.phase = .stopped ∧ t.out = s.out ∧ t.brk = s.brk ∧ t.ext = s.ext ∧ t.pst = s.pst ∧
      t.table = s.table) ∨
    (s.ops.head? = some .reset ∧ t.phase = .setup ∧ t.idle = true ∧ t.out = [])

/-- Rule R200: `reset`, in every phase, gives the six elements of the block their reset values. -/
def Obligations.ResetRestoresEveryElement : Prop :=
  ∀ s : State, ∃ t, execHost .reset s = .next t ∧ t.brk = false ∧ t.ext = false ∧ t.pst = .zero ∧
    (∀ i, t.lookup i = 0#8) ∧ t.phase = .setup ∧ t.out = []

/-- What the rules of `reset` and `disable` do not name is kept, which is the model's choice (assumptions
7 and 10): `reset` and `disable` keep the parameters, the records and the surroundings, and the bytes
waiting at the Byte Source stay through every step from `Stopped`. -/
def Obligations.ResetAndDisableKeepTheSurroundings : Prop :=
  (∀ s t : State, execHost .reset s = .next t →
    t = { s with brk := t.brk, ext := t.ext, pst := t.pst, table := t.table, phase := t.phase,
                 out := t.out }) ∧
  (∀ s t : State, execHost .disable s = .next t → t = { s with phase := .stopped }) ∧
  ∀ s t : State, s.phase = .stopped → step s = .next t →
    t.rx = s.rx ∧ t.line = s.line ∧ t.beyond = s.beyond

/-- Rules R33, R34 and R35: a fresh instance of either variant is `Idle`, unmapped, in `Setup`, with an
empty trace, and no byte is fed to it. -/
def Obligations.FreshInstanceIsIdleAndUnmapped : Prop :=
  ∀ (v : Variant) (p : Byte),
    (State.resetOf v p).brk = false ∧ (State.resetOf v p).ext = false ∧
    (State.resetOf v p).pst = .zero ∧ (∀ i, (State.resetOf v p).lookup i = 0#8) ∧
    (State.resetOf v p).phase = .setup ∧ (State.resetOf v p).out = [] ∧
    ∀ i t, exec i (State.resetOf v p) ≠ .next t

/-! ### The interrupt and its handler -/

/-- Rule R174: invoked with no data pending, `service` returns `NotHandled` and no state changes but the
record of the answer. -/
def Obligations.ServiceWithNothingPendingIsNotHandled : Prop :=
  ∀ s : State, s.phase = .running → s.rx = [] →
    execHost .service s = .next { s with results := s.results ++ [.notHandled] }

/-- Entering the handler saves nothing and changes nothing of the block. In `Setup` `service` returns
`NotHandled` whatever waits at the Byte Source: that bytes can wait there is the model's choice (assumption
10). In `Stopped` it has no step; the name of that stop is the model's (assumption 8). -/
def Obligations.ServiceEntryChangesNothingOfTheBlock : Prop :=
  ∀ s : State,
    (s.phase = .running → s.rx ≠ [] → execHost .service s = .next { s with inService := true }) ∧
    (s.phase = .setup → execHost .service s = .next { s with results := s.results ++ [.notHandled] }) ∧
    (s.phase = .stopped → execHost .service s = .fault .handlerDetached)

/-- The handler's return restores nothing: where `has_data()` is false and no byte arrives, the loop ends
with `Handled`, whether or not the line begins with a gap. That the gap is used up is the model's choice
(assumption 4). -/
def Obligations.DrainedHandlerReturnsHandled : Prop :=
  ∀ s : State, s.inService = true → s.hasData = false → s.arriving = none →
    step s = .next { s.takeGap with inService := false, results := s.results ++ [.handled] } ∧
    (s.line = [] → s.beyond = .silent →
      step s = .next { s with inService := false, results := s.results ++ [.handled] }) ∧
    ∀ l, s.phase = .running → s.line = .gap :: l →
      step s = .next { s with inService := false, results := s.results ++ [.handled], line := l }

/-- With no host operation pending and no byte arriving, a waiting byte's interrupt invokes `service`, and
with nothing to read the block does nothing, in every phase: in `Setup` and `Stopped` whatever waits at the
Byte Source or is on the line. That the interrupt comes after the host's pending operations, and that a gap
of the line is used up, is the model's choice (assumption 4). -/
def Obligations.WaitingByteInterruptsAnIdleHost : Prop :=
  ∀ s : State, s.inService = false → s.ops = [] →
    (s.arriving = none → s.hasData = true → step s = .next { s.takeGap with inService := true }) ∧
    (s.arriving = none → s.hasData = false → step s = .next s.takeGap) ∧
    (s.phase ≠ .running → step s = .next s) ∧
    (s.line = [] → s.beyond = .silent → s.rx = [] → step s = .next s) ∧
    ∀ l, s.phase = .running → s.line = .gap :: l →
      (s.rx ≠ [] → step s = .next { s with inService := true, line := l }) ∧
      (s.rx = [] → step s = .next { s with line := l })

/-- The link's moments, which are the model's choice (assumptions 4 and 20): only in `Running` is one used
up; the listed ones come first, then those of a repeating or a free supply, without end; a byte arrives in
a step of its own, behind every waiting byte; a gap lets another agent move. -/
def Obligations.MomentsOfTheLinkComeInOrder : Prop :=
  ∀ s : State,
    (s.phase ≠ .running → s.arriving = none ∧ s.takeGap = s) ∧
    (s.phase = .running →
      (∀ b l, s.line = .byte b :: l → step s = .next { s with rx := s.rx ++ [b], line := l }) ∧
      (∀ l, s.line = .gap :: l → s.arriving = none ∧ s.takeGap = { s with line := l }) ∧
      (s.line = [] →
        ((s.beyond = .silent ∨ s.beyond = .repeating []) → s.arriving = none ∧ s.takeGap = s) ∧
        (∀ b ms, s.beyond = .repeating (.byte b :: ms) →
          step s = .next { s with rx := s.rx ++ [b], beyond := .repeating (ms ++ [.byte b]) }) ∧
        (∀ ms, s.beyond = .repeating (.gap :: ms) →
          s.arriving = none ∧ s.takeGap = { s with beyond := .repeating (ms ++ [.gap]) }) ∧
        ∀ n, s.beyond = .free n → match Config.freeByte n with
          | some b => step s = .next { s with rx := s.rx ++ [b], beyond := .free (n + 1) }
          | none => s.arriving = none ∧ s.takeGap = { s with beyond := .free (n + 1) }))

/-- Bytes that arrive while reception is enabled wait behind every earlier byte, in arrival order. That the
Byte Source keeps every one of them is the model's choice (assumption 10), as is that arrivals come before
other moves, one a step (assumption 4). -/
def Obligations.BytesWaitInArrivalOrder : Prop :=
  ∀ (bs : List Byte) (s : State), s.phase = .running →
    Host.Core.run core bs.length { s with line := bs.map Arrival.byte }
      = .next { s with rx := s.rx ++ bs, line := [] }

/-- Rule R178, the drain loop: `service` with bytes waiting feeds every one, once, in order, by `feed`, and
returns `Handled`. That no further byte comes is a premise, without which it need not return
(`EndlessBytesKeepServiceRunning`). That it takes one step to enter, one per byte and one to return is the
model's (assumption 12), and so is the record of `Handled` (assumption 16). -/
def Obligations.ServiceDrainsEveryWaitingByte : Prop :=
  ∀ (bs : List Byte) (s : State), bs ≠ [] → s.phase = .running → s.inService = false →
    Host.Core.run core (bs.length + 2)
        { s with rx := bs, line := [], beyond := .silent, ops := [HostOp.service] }
      = .next { feedAll bs { s with rx := [], line := [], beyond := .silent, ops := [] } with
                  results := s.results ++ [.handled] }

/-- Rule R178 and decision D11: the drain loop has no bound. Where a byte comes before each of its moves,
over and over, `service` never returns: after any number of steps it still runs, and nothing is recorded of
a return. The form of the endless supply is the model's choice (assumption 20), as is that an arrival comes
before the loop's move (assumption 4). -/
def Obligations.EndlessBytesKeepServiceRunning : Prop :=
  ∀ (bs : List Byte) (s : State), bs ≠ [] → s.phase = .running → s.inService = true → s.line = [] →
    s.beyond = .repeating (bs.flatMap fun b => [.byte b, .gap]) →
    ∀ n, ∃ t, Host.Core.run core n s = .next t ∧ t.inService = true ∧ t.results = s.results

/-- The loop ends only where `has_data()` is false and no byte arrives, and then with `Handled`. That a
byte which arrives comes before the loop can end is the model's choice (assumption 4), and the record of
`Handled` is the model's (assumption 16). -/
def Obligations.ServiceEndsOnlyWithNoDataLeft : Prop :=
  ∀ s t : State, s.inService = true → step s = .next t →
    (t.inService = false ↔ s.hasData = false ∧ s.arriving = none) ∧
    (t.inService = false → t.results = s.results ++ [.handled]) ∧
    (t.inService = true → t.results = s.results)

/-- The model's choice, read from rule R182 and decision D12 (assumption 12): no host operation, and no
second `service`, comes between the bytes of one; while the handler runs the host's operations wait. -/
def Obligations.HostOperationsWaitForTheHandler : Prop :=
  ∀ s t : State, s.inService = true → step s = .next t →
    t.ops = s.ops ∧ t.phase = s.phase ∧ t.table = s.table ∧ t.faults = s.faults

/-! ### The whole machine -/

/-- Every step keeps the invariant, from every state that meets it. -/
def Obligations.StepKeepsInv : Prop :=
  ∀ s t : State, Inv s → step s = .next t → Inv t

/-- A fresh instance, of either variant and whatever its pause identifier, meets the invariant, and so
does the reset state. -/
def Obligations.FreshInstanceMeetsInv : Prop :=
  (∀ (v : Variant) (p : Byte), Inv (State.resetOf v p)) ∧ Inv State.reset

/-- No step changes `VARIANT` or `PAUSE_ID`. -/
def Obligations.NoStepChangesTheParameters : Prop :=
  ∀ s t : State, step s = .next t → t.variant = s.variant ∧ t.pauseId = s.pauseId

/-- Only the host changes the phase, and only by `enable`, `disable` and `reset`: no byte can. -/
def Obligations.OnlyTheHostChangesThePhase : Prop :=
  ∀ s t : State, step s = .next t → t.phase ≠ s.phase →
    s.inService = false ∧ ∃ op, s.ops = op :: t.ops ∧
      ((op = .enable ∧ s.phase = .setup ∧ t.phase = .running) ∨
       (op = .disable ∧ t.phase = .stopped) ∨ (op = .reset ∧ t.phase = .setup))

/-- A pending lead-in never expires: the decoder's fields change only in a step that feeds a byte, or by
`reset`. -/
def Obligations.PendingLeadInsNeverExpire : Prop :=
  ∀ s t : State, step s = .next t → (t.brk ≠ s.brk ∨ t.ext ≠ s.ext ∨ t.pst ≠ s.pst) →
    (s.inService = true ∧ s.phase = .running ∧ ∃ b, s.rx = b :: t.rx) ∨
    (s.inService = false ∧ s.ops = .reset :: t.ops ∧ t.idle = true)

/-- Only `feed` sends anything to the sink, at most one frame a step; `reset` empties the trace and sends
nothing. -/
def Obligations.OnlyFeedEmitsAndOneFrameAtMost : Prop :=
  ∀ s t : State, step s = .next t →
    t.out = s.out ∨
    (s.inService = true ∧ (∃ b, s.rx = b :: t.rx) ∧ ∃ e, t.out = s.out ++ frame e) ∨
    (s.inService = false ∧ s.ops = .reset :: t.ops ∧ t.out = [])

/-- No byte and no interrupt raises a fault: a fault is recorded only by a `configure` outside `Setup`.
That the run goes on after the record is the model's choice (assumption 6). -/
def Obligations.OnlyLateConfigureRecordsAFault : Prop :=
  ∀ s t : State, step s = .next t → t.faults ≠ s.faults →
    s.phase ≠ .setup ∧ t.faults = s.faults ++ [.configError s.phase] ∧
    ∃ e, s.ops = .configure e :: t.ops

/-- A step without a next state is a host operation that its phase does not admit: in a state that meets
the invariant no byte, no arrival and no interrupt ever stops the machine. The names of the stops are the
model's (assumption 8), and so is that a `configure` outside `Setup`, which records its fault and goes on,
is none of them (assumption 6). -/
def Obligations.OnlyAnUnadmittedOperationStopsTheMachine : Prop :=
  ∀ s : State, Inv s → (∀ t, step s ≠ .next t) →
    s.inService = false ∧
    ((s.ops.head? = some .enable ∧ s.phase ≠ .setup ∧ step s = .fault (.enableNotAdmitted s.phase)) ∨
     (s.ops.head? = some .service ∧ s.phase = .stopped ∧ step s = .fault .handlerDetached))

/-! ### The operand that decoding never gives -/

/-- `MB.DATA` with a sentinel value, which is not well formed and which no byte decodes to, acts as it does
on a data byte. This is the model's choice (assumption 18). -/
def Obligations.IllFormedDataActsAsADataByte : Prop :=
  ∀ (s : State) (d : Byte), s.phase = .running → s.variant = .multiByte → isSentinel d = true →
    (Instr.mbData d).wellFormed = false ∧ (∀ v b, decodeByte v b ≠ .mbData d) ∧
    (s.pst = .two → exec (.mbData d) s = .next { s with pst := .one }) ∧
    (s.pst ≠ .two → ∀ k1 k : Byte, k1 = (if s.pst = .one then s.pauseId else d) →
      k = (if s.ext then k1 ||| 0x80#8 else k1) →
      exec (.mbData d) s = .next { s with
        brk := false, ext := false, pst := .zero,
        out := s.out ++ [.reportKey (s.lookup k) (!s.brk), .sync] })
end

