-- ==== Sys2Proof/Laws/State.lean ====
section
/-! SUPPORT. One lemma per field per update of the state, each true by `rfl`. -/

namespace Sys2Proof.Machine

/-! ### `emit` -/

@[simp] theorem emit_variant (s : State) (e : KeyEvent) : (s.emit e).variant = s.variant := rfl
@[simp] theorem emit_pauseId (s : State) (e : KeyEvent) : (s.emit e).pauseId = s.pauseId := rfl
@[simp] theorem emit_brk (s : State) (e : KeyEvent) : (s.emit e).brk = s.brk := rfl
@[simp] theorem emit_ext (s : State) (e : KeyEvent) : (s.emit e).ext = s.ext := rfl
@[simp] theorem emit_pst (s : State) (e : KeyEvent) : (s.emit e).pst = s.pst := rfl
@[simp] theorem emit_table (s : State) (e : KeyEvent) : (s.emit e).table = s.table := rfl
@[simp] theorem emit_phase (s : State) (e : KeyEvent) : (s.emit e).phase = s.phase := rfl
@[simp] theorem emit_out (s : State) (e : KeyEvent) : (s.emit e).out = s.out ++ frame e := rfl
@[simp] theorem emit_faults (s : State) (e : KeyEvent) : (s.emit e).faults = s.faults := rfl
@[simp] theorem emit_results (s : State) (e : KeyEvent) : (s.emit e).results = s.results := rfl
@[simp] theorem emit_inService (s : State) (e : KeyEvent) : (s.emit e).inService = s.inService := rfl
@[simp] theorem emit_rx (s : State) (e : KeyEvent) : (s.emit e).rx = s.rx := rfl
@[simp] theorem emit_line (s : State) (e : KeyEvent) : (s.emit e).line = s.line := rfl
@[simp] theorem emit_beyond (s : State) (e : KeyEvent) : (s.emit e).beyond = s.beyond := rfl
@[simp] theorem emit_ops (s : State) (e : KeyEvent) : (s.emit e).ops = s.ops := rfl

/-! ### `raise` -/

@[simp] theorem raise_variant (s : State) (c : Condition) : (s.raise c).variant = s.variant := rfl
@[simp] theorem raise_pauseId (s : State) (c : Condition) : (s.raise c).pauseId = s.pauseId := rfl
@[simp] theorem raise_brk (s : State) (c : Condition) : (s.raise c).brk = s.brk := rfl
@[simp] theorem raise_ext (s : State) (c : Condition) : (s.raise c).ext = s.ext := rfl
@[simp] theorem raise_pst (s : State) (c : Condition) : (s.raise c).pst = s.pst := rfl
@[simp] theorem raise_table (s : State) (c : Condition) : (s.raise c).table = s.table := rfl
@[simp] theorem raise_phase (s : State) (c : Condition) : (s.raise c).phase = s.phase := rfl
@[simp] theorem raise_out (s : State) (c : Condition) : (s.raise c).out = s.out := rfl
@[simp] theorem raise_faults (s : State) (c : Condition) : (s.raise c).faults = s.faults ++ [c] := rfl
@[simp] theorem raise_results (s : State) (c : Condition) : (s.raise c).results = s.results := rfl
@[simp] theorem raise_inService (s : State) (c : Condition) : (s.raise c).inService = s.inService := rfl
@[simp] theorem raise_rx (s : State) (c : Condition) : (s.raise c).rx = s.rx := rfl
@[simp] theorem raise_line (s : State) (c : Condition) : (s.raise c).line = s.line := rfl
@[simp] theorem raise_beyond (s : State) (c : Condition) : (s.raise c).beyond = s.beyond := rfl
@[simp] theorem raise_ops (s : State) (c : Condition) : (s.raise c).ops = s.ops := rfl

/-! ### `setPhase` -/

@[simp] theorem setPhase_variant (s : State) (p : Phase) : (s.setPhase p).variant = s.variant := rfl
@[simp] theorem setPhase_pauseId (s : State) (p : Phase) : (s.setPhase p).pauseId = s.pauseId := rfl
@[simp] theorem setPhase_brk (s : State) (p : Phase) : (s.setPhase p).brk = s.brk := rfl
@[simp] theorem setPhase_ext (s : State) (p : Phase) : (s.setPhase p).ext = s.ext := rfl
@[simp] theorem setPhase_pst (s : State) (p : Phase) : (s.setPhase p).pst = s.pst := rfl
@[simp] theorem setPhase_table (s : State) (p : Phase) : (s.setPhase p).table = s.table := rfl
@[simp] theorem setPhase_phase (s : State) (p : Phase) : (s.setPhase p).phase = p := rfl
@[simp] theorem setPhase_out (s : State) (p : Phase) : (s.setPhase p).out = s.out := rfl
@[simp] theorem setPhase_faults (s : State) (p : Phase) : (s.setPhase p).faults = s.faults := rfl
@[simp] theorem setPhase_results (s : State) (p : Phase) : (s.setPhase p).results = s.results := rfl
@[simp] theorem setPhase_inService (s : State) (p : Phase) : (s.setPhase p).inService = s.inService := rfl
@[simp] theorem setPhase_rx (s : State) (p : Phase) : (s.setPhase p).rx = s.rx := rfl
@[simp] theorem setPhase_line (s : State) (p : Phase) : (s.setPhase p).line = s.line := rfl
@[simp] theorem setPhase_beyond (s : State) (p : Phase) : (s.setPhase p).beyond = s.beyond := rfl
@[simp] theorem setPhase_ops (s : State) (p : Phase) : (s.setPhase p).ops = s.ops := rfl

/-! ### `setTable` -/

@[simp] theorem setTable_variant (s : State) (t : Vector Byte 256) : (s.setTable t).variant = s.variant := rfl
@[simp] theorem setTable_pauseId (s : State) (t : Vector Byte 256) : (s.setTable t).pauseId = s.pauseId := rfl
@[simp] theorem setTable_brk (s : State) (t : Vector Byte 256) : (s.setTable t).brk = s.brk := rfl
@[simp] theorem setTable_ext (s : State) (t : Vector Byte 256) : (s.setTable t).ext = s.ext := rfl
@[simp] theorem setTable_pst (s : State) (t : Vector Byte 256) : (s.setTable t).pst = s.pst := rfl
@[simp] theorem setTable_table (s : State) (t : Vector Byte 256) : (s.setTable t).table = Memory.ofEntries t := rfl
@[simp] theorem setTable_phase (s : State) (t : Vector Byte 256) : (s.setTable t).phase = s.phase := rfl
@[simp] theorem setTable_out (s : State) (t : Vector Byte 256) : (s.setTable t).out = s.out := rfl
@[simp] theorem setTable_faults (s : State) (t : Vector Byte 256) : (s.setTable t).faults = s.faults := rfl
@[simp] theorem setTable_results (s : State) (t : Vector Byte 256) : (s.setTable t).results = s.results := rfl
@[simp] theorem setTable_inService (s : State) (t : Vector Byte 256) : (s.setTable t).inService = s.inService := rfl
@[simp] theorem setTable_rx (s : State) (t : Vector Byte 256) : (s.setTable t).rx = s.rx := rfl
@[simp] theorem setTable_line (s : State) (t : Vector Byte 256) : (s.setTable t).line = s.line := rfl
@[simp] theorem setTable_beyond (s : State) (t : Vector Byte 256) : (s.setTable t).beyond = s.beyond := rfl
@[simp] theorem setTable_ops (s : State) (t : Vector Byte 256) : (s.setTable t).ops = s.ops := rfl

/-! ### `clear` -/

@[simp] theorem clear_variant (s : State) : (s.clear).variant = s.variant := rfl
@[simp] theorem clear_pauseId (s : State) : (s.clear).pauseId = s.pauseId := rfl
@[simp] theorem clear_brk (s : State) : (s.clear).brk = false := rfl
@[simp] theorem clear_ext (s : State) : (s.clear).ext = false := rfl
@[simp] theorem clear_pst (s : State) : (s.clear).pst = .zero := rfl
@[simp] theorem clear_table (s : State) : (s.clear).table = [] := rfl
@[simp] theorem clear_phase (s : State) : (s.clear).phase = .setup := rfl
@[simp] theorem clear_out (s : State) : (s.clear).out = [] := rfl
@[simp] theorem clear_faults (s : State) : (s.clear).faults = s.faults := rfl
@[simp] theorem clear_results (s : State) : (s.clear).results = s.results := rfl
@[simp] theorem clear_inService (s : State) : (s.clear).inService = s.inService := rfl
@[simp] theorem clear_rx (s : State) : (s.clear).rx = s.rx := rfl
@[simp] theorem clear_line (s : State) : (s.clear).line = s.line := rfl
@[simp] theorem clear_beyond (s : State) : (s.clear).beyond = s.beyond := rfl
@[simp] theorem clear_ops (s : State) : (s.clear).ops = s.ops := rfl

/-! ### `enterHandler` -/

@[simp] theorem enterHandler_variant (s : State) : (s.enterHandler).variant = s.variant := rfl
@[simp] theorem enterHandler_pauseId (s : State) : (s.enterHandler).pauseId = s.pauseId := rfl
@[simp] theorem enterHandler_brk (s : State) : (s.enterHandler).brk = s.brk := rfl
@[simp] theorem enterHandler_ext (s : State) : (s.enterHandler).ext = s.ext := rfl
@[simp] theorem enterHandler_pst (s : State) : (s.enterHandler).pst = s.pst := rfl
@[simp] theorem enterHandler_table (s : State) : (s.enterHandler).table = s.table := rfl
@[simp] theorem enterHandler_phase (s : State) : (s.enterHandler).phase = s.phase := rfl
@[simp] theorem enterHandler_out (s : State) : (s.enterHandler).out = s.out := rfl
@[simp] theorem enterHandler_faults (s : State) : (s.enterHandler).faults = s.faults := rfl
@[simp] theorem enterHandler_results (s : State) : (s.enterHandler).results = s.results := rfl
@[simp] theorem enterHandler_inService (s : State) : (s.enterHandler).inService = true := rfl
@[simp] theorem enterHandler_rx (s : State) : (s.enterHandler).rx = s.rx := rfl
@[simp] theorem enterHandler_line (s : State) : (s.enterHandler).line = s.line := rfl
@[simp] theorem enterHandler_beyond (s : State) : (s.enterHandler).beyond = s.beyond := rfl
@[simp] theorem enterHandler_ops (s : State) : (s.enterHandler).ops = s.ops := rfl

/-! ### `leaveHandler` -/

@[simp] theorem leaveHandler_variant (s : State) : (s.leaveHandler).variant = s.variant := rfl
@[simp] theorem leaveHandler_pauseId (s : State) : (s.leaveHandler).pauseId = s.pauseId := rfl
@[simp] theorem leaveHandler_brk (s : State) : (s.leaveHandler).brk = s.brk := rfl
@[simp] theorem leaveHandler_ext (s : State) : (s.leaveHandler).ext = s.ext := rfl
@[simp] theorem leaveHandler_pst (s : State) : (s.leaveHandler).pst = s.pst := rfl
@[simp] theorem leaveHandler_table (s : State) : (s.leaveHandler).table = s.table := rfl
@[simp] theorem leaveHandler_phase (s : State) : (s.leaveHandler).phase = s.phase := rfl
@[simp] theorem leaveHandler_out (s : State) : (s.leaveHandler).out = s.out := rfl
@[simp] theorem leaveHandler_faults (s : State) : (s.leaveHandler).faults = s.faults := rfl
@[simp] theorem leaveHandler_results (s : State) : (s.leaveHandler).results = s.results ++ [.handled] := rfl
@[simp] theorem leaveHandler_inService (s : State) : (s.leaveHandler).inService = false := rfl
@[simp] theorem leaveHandler_rx (s : State) : (s.leaveHandler).rx = s.rx := rfl
@[simp] theorem leaveHandler_line (s : State) : (s.leaveHandler).line = s.line := rfl
@[simp] theorem leaveHandler_beyond (s : State) : (s.leaveHandler).beyond = s.beyond := rfl
@[simp] theorem leaveHandler_ops (s : State) : (s.leaveHandler).ops = s.ops := rfl

/-! ### `notHandled` -/

@[simp] theorem notHandled_variant (s : State) : (s.notHandled).variant = s.variant := rfl
@[simp] theorem notHandled_pauseId (s : State) : (s.notHandled).pauseId = s.pauseId := rfl
@[simp] theorem notHandled_brk (s : State) : (s.notHandled).brk = s.brk := rfl
@[simp] theorem notHandled_ext (s : State) : (s.notHandled).ext = s.ext := rfl
@[simp] theorem notHandled_pst (s : State) : (s.notHandled).pst = s.pst := rfl
@[simp] theorem notHandled_table (s : State) : (s.notHandled).table = s.table := rfl
@[simp] theorem notHandled_phase (s : State) : (s.notHandled).phase = s.phase := rfl
@[simp] theorem notHandled_out (s : State) : (s.notHandled).out = s.out := rfl
@[simp] theorem notHandled_faults (s : State) : (s.notHandled).faults = s.faults := rfl
@[simp] theorem notHandled_results (s : State) : (s.notHandled).results = s.results ++ [.notHandled] := rfl
@[simp] theorem notHandled_inService (s : State) : (s.notHandled).inService = s.inService := rfl
@[simp] theorem notHandled_rx (s : State) : (s.notHandled).rx = s.rx := rfl
@[simp] theorem notHandled_line (s : State) : (s.notHandled).line = s.line := rfl
@[simp] theorem notHandled_beyond (s : State) : (s.notHandled).beyond = s.beyond := rfl
@[simp] theorem notHandled_ops (s : State) : (s.notHandled).ops = s.ops := rfl

/-! ### `receive` -/

@[simp] theorem receive_variant (s : State) (b : Byte) : (s.receive b).variant = s.variant := rfl
@[simp] theorem receive_pauseId (s : State) (b : Byte) : (s.receive b).pauseId = s.pauseId := rfl
@[simp] theorem receive_brk (s : State) (b : Byte) : (s.receive b).brk = s.brk := rfl
@[simp] theorem receive_ext (s : State) (b : Byte) : (s.receive b).ext = s.ext := rfl
@[simp] theorem receive_pst (s : State) (b : Byte) : (s.receive b).pst = s.pst := rfl
@[simp] theorem receive_table (s : State) (b : Byte) : (s.receive b).table = s.table := rfl
@[simp] theorem receive_phase (s : State) (b : Byte) : (s.receive b).phase = s.phase := rfl
@[simp] theorem receive_out (s : State) (b : Byte) : (s.receive b).out = s.out := rfl
@[simp] theorem receive_faults (s : State) (b : Byte) : (s.receive b).faults = s.faults := rfl
@[simp] theorem receive_results (s : State) (b : Byte) : (s.receive b).results = s.results := rfl
@[simp] theorem receive_inService (s : State) (b : Byte) : (s.receive b).inService = s.inService := rfl
@[simp] theorem receive_rx (s : State) (b : Byte) : (s.receive b).rx = s.rx ++ [b] := rfl
@[simp] theorem receive_line (s : State) (b : Byte) : (s.receive b).line = s.line := rfl
@[simp] theorem receive_beyond (s : State) (b : Byte) : (s.receive b).beyond = s.beyond := rfl
@[simp] theorem receive_ops (s : State) (b : Byte) : (s.receive b).ops = s.ops := rfl

/-! ### `setRx` -/

@[simp] theorem setRx_variant (s : State) (l : List Byte) : (s.setRx l).variant = s.variant := rfl
@[simp] theorem setRx_pauseId (s : State) (l : List Byte) : (s.setRx l).pauseId = s.pauseId := rfl
@[simp] theorem setRx_brk (s : State) (l : List Byte) : (s.setRx l).brk = s.brk := rfl
@[simp] theorem setRx_ext (s : State) (l : List Byte) : (s.setRx l).ext = s.ext := rfl
@[simp] theorem setRx_pst (s : State) (l : List Byte) : (s.setRx l).pst = s.pst := rfl
@[simp] theorem setRx_table (s : State) (l : List Byte) : (s.setRx l).table = s.table := rfl
@[simp] theorem setRx_phase (s : State) (l : List Byte) : (s.setRx l).phase = s.phase := rfl
@[simp] theorem setRx_out (s : State) (l : List Byte) : (s.setRx l).out = s.out := rfl
@[simp] theorem setRx_faults (s : State) (l : List Byte) : (s.setRx l).faults = s.faults := rfl
@[simp] theorem setRx_results (s : State) (l : List Byte) : (s.setRx l).results = s.results := rfl
@[simp] theorem setRx_inService (s : State) (l : List Byte) : (s.setRx l).inService = s.inService := rfl
@[simp] theorem setRx_rx (s : State) (l : List Byte) : (s.setRx l).rx = l := rfl
@[simp] theorem setRx_line (s : State) (l : List Byte) : (s.setRx l).line = s.line := rfl
@[simp] theorem setRx_beyond (s : State) (l : List Byte) : (s.setRx l).beyond = s.beyond := rfl
@[simp] theorem setRx_ops (s : State) (l : List Byte) : (s.setRx l).ops = s.ops := rfl

/-! ### `setLine` -/

@[simp] theorem setLine_variant (s : State) (l : List Arrival) (y : Beyond) : (s.setLine l y).variant = s.variant := rfl
@[simp] theorem setLine_pauseId (s : State) (l : List Arrival) (y : Beyond) : (s.setLine l y).pauseId = s.pauseId := rfl
@[simp] theorem setLine_brk (s : State) (l : List Arrival) (y : Beyond) : (s.setLine l y).brk = s.brk := rfl
@[simp] theorem setLine_ext (s : State) (l : List Arrival) (y : Beyond) : (s.setLine l y).ext = s.ext := rfl
@[simp] theorem setLine_pst (s : State) (l : List Arrival) (y : Beyond) : (s.setLine l y).pst = s.pst := rfl
@[simp] theorem setLine_table (s : State) (l : List Arrival) (y : Beyond) : (s.setLine l y).table = s.table := rfl
@[simp] theorem setLine_phase (s : State) (l : List Arrival) (y : Beyond) : (s.setLine l y).phase = s.phase := rfl
@[simp] theorem setLine_out (s : State) (l : List Arrival) (y : Beyond) : (s.setLine l y).out = s.out := rfl
@[simp] theorem setLine_faults (s : State) (l : List Arrival) (y : Beyond) : (s.setLine l y).faults = s.faults := rfl
@[simp] theorem setLine_results (s : State) (l : List Arrival) (y : Beyond) : (s.setLine l y).results = s.results := rfl
@[simp] theorem setLine_inService (s : State) (l : List Arrival) (y : Beyond) : (s.setLine l y).inService = s.inService := rfl
@[simp] theorem setLine_rx (s : State) (l : List Arrival) (y : Beyond) : (s.setLine l y).rx = s.rx := rfl
@[simp] theorem setLine_line (s : State) (l : List Arrival) (y : Beyond) : (s.setLine l y).line = l := rfl
@[simp] theorem setLine_beyond (s : State) (l : List Arrival) (y : Beyond) : (s.setLine l y).beyond = y := rfl
@[simp] theorem setLine_ops (s : State) (l : List Arrival) (y : Beyond) : (s.setLine l y).ops = s.ops := rfl

/-! ### `setOps` -/

@[simp] theorem setOps_variant (s : State) (l : List HostOp) : (s.setOps l).variant = s.variant := rfl
@[simp] theorem setOps_pauseId (s : State) (l : List HostOp) : (s.setOps l).pauseId = s.pauseId := rfl
@[simp] theorem setOps_brk (s : State) (l : List HostOp) : (s.setOps l).brk = s.brk := rfl
@[simp] theorem setOps_ext (s : State) (l : List HostOp) : (s.setOps l).ext = s.ext := rfl
@[simp] theorem setOps_pst (s : State) (l : List HostOp) : (s.setOps l).pst = s.pst := rfl
@[simp] theorem setOps_table (s : State) (l : List HostOp) : (s.setOps l).table = s.table := rfl
@[simp] theorem setOps_phase (s : State) (l : List HostOp) : (s.setOps l).phase = s.phase := rfl
@[simp] theorem setOps_out (s : State) (l : List HostOp) : (s.setOps l).out = s.out := rfl
@[simp] theorem setOps_faults (s : State) (l : List HostOp) : (s.setOps l).faults = s.faults := rfl
@[simp] theorem setOps_results (s : State) (l : List HostOp) : (s.setOps l).results = s.results := rfl
@[simp] theorem setOps_inService (s : State) (l : List HostOp) : (s.setOps l).inService = s.inService := rfl
@[simp] theorem setOps_rx (s : State) (l : List HostOp) : (s.setOps l).rx = s.rx := rfl
@[simp] theorem setOps_line (s : State) (l : List HostOp) : (s.setOps l).line = s.line := rfl
@[simp] theorem setOps_beyond (s : State) (l : List HostOp) : (s.setOps l).beyond = s.beyond := rfl
@[simp] theorem setOps_ops (s : State) (l : List HostOp) : (s.setOps l).ops = l := rfl

/-! ### `setBrk` -/

@[simp] theorem setBrk_variant (s : State) : (s.setBrk).variant = s.variant := rfl
@[simp] theorem setBrk_pauseId (s : State) : (s.setBrk).pauseId = s.pauseId := rfl
@[simp] theorem setBrk_brk (s : State) : (s.setBrk).brk = true := rfl
@[simp] theorem setBrk_ext (s : State) : (s.setBrk).ext = s.ext := rfl
@[simp] theorem setBrk_pst (s : State) : (s.setBrk).pst = s.pst := rfl
@[simp] theorem setBrk_table (s : State) : (s.setBrk).table = s.table := rfl
@[simp] theorem setBrk_phase (s : State) : (s.setBrk).phase = s.phase := rfl
@[simp] theorem setBrk_out (s : State) : (s.setBrk).out = s.out := rfl
@[simp] theorem setBrk_faults (s : State) : (s.setBrk).faults = s.faults := rfl
@[simp] theorem setBrk_results (s : State) : (s.setBrk).results = s.results := rfl
@[simp] theorem setBrk_inService (s : State) : (s.setBrk).inService = s.inService := rfl
@[simp] theorem setBrk_rx (s : State) : (s.setBrk).rx = s.rx := rfl
@[simp] theorem setBrk_line (s : State) : (s.setBrk).line = s.line := rfl
@[simp] theorem setBrk_beyond (s : State) : (s.setBrk).beyond = s.beyond := rfl
@[simp] theorem setBrk_ops (s : State) : (s.setBrk).ops = s.ops := rfl

/-! ### `setExt` -/

@[simp] theorem setExt_variant (s : State) : (s.setExt).variant = s.variant := rfl
@[simp] theorem setExt_pauseId (s : State) : (s.setExt).pauseId = s.pauseId := rfl
@[simp] theorem setExt_brk (s : State) : (s.setExt).brk = s.brk := rfl
@[simp] theorem setExt_ext (s : State) : (s.setExt).ext = true := rfl
@[simp] theorem setExt_pst (s : State) : (s.setExt).pst = s.pst := rfl
@[simp] theorem setExt_table (s : State) : (s.setExt).table = s.table := rfl
@[simp] theorem setExt_phase (s : State) : (s.setExt).phase = s.phase := rfl
@[simp] theorem setExt_out (s : State) : (s.setExt).out = s.out := rfl
@[simp] theorem setExt_faults (s : State) : (s.setExt).faults = s.faults := rfl
@[simp] theorem setExt_results (s : State) : (s.setExt).results = s.results := rfl
@[simp] theorem setExt_inService (s : State) : (s.setExt).inService = s.inService := rfl
@[simp] theorem setExt_rx (s : State) : (s.setExt).rx = s.rx := rfl
@[simp] theorem setExt_line (s : State) : (s.setExt).line = s.line := rfl
@[simp] theorem setExt_beyond (s : State) : (s.setExt).beyond = s.beyond := rfl
@[simp] theorem setExt_ops (s : State) : (s.setExt).ops = s.ops := rfl

/-! ### `startPause` -/

@[simp] theorem startPause_variant (s : State) : (s.startPause).variant = s.variant := rfl
@[simp] theorem startPause_pauseId (s : State) : (s.startPause).pauseId = s.pauseId := rfl
@[simp] theorem startPause_brk (s : State) : (s.startPause).brk = s.brk := rfl
@[simp] theorem startPause_ext (s : State) : (s.startPause).ext = s.ext := rfl
@[simp] theorem startPause_pst (s : State) : (s.startPause).pst = .two := rfl
@[simp] theorem startPause_table (s : State) : (s.startPause).table = s.table := rfl
@[simp] theorem startPause_phase (s : State) : (s.startPause).phase = s.phase := rfl
@[simp] theorem startPause_out (s : State) : (s.startPause).out = s.out := rfl
@[simp] theorem startPause_faults (s : State) : (s.startPause).faults = s.faults := rfl
@[simp] theorem startPause_results (s : State) : (s.startPause).results = s.results := rfl
@[simp] theorem startPause_inService (s : State) : (s.startPause).inService = s.inService := rfl
@[simp] theorem startPause_rx (s : State) : (s.startPause).rx = s.rx := rfl
@[simp] theorem startPause_line (s : State) : (s.startPause).line = s.line := rfl
@[simp] theorem startPause_beyond (s : State) : (s.startPause).beyond = s.beyond := rfl
@[simp] theorem startPause_ops (s : State) : (s.startPause).ops = s.ops := rfl

/-! ### `absorbPause` -/

@[simp] theorem absorbPause_variant (s : State) : (s.absorbPause).variant = s.variant := rfl
@[simp] theorem absorbPause_pauseId (s : State) : (s.absorbPause).pauseId = s.pauseId := rfl
@[simp] theorem absorbPause_brk (s : State) : (s.absorbPause).brk = s.brk := rfl
@[simp] theorem absorbPause_ext (s : State) : (s.absorbPause).ext = s.ext := rfl
@[simp] theorem absorbPause_pst (s : State) : (s.absorbPause).pst = .one := rfl
@[simp] theorem absorbPause_table (s : State) : (s.absorbPause).table = s.table := rfl
@[simp] theorem absorbPause_phase (s : State) : (s.absorbPause).phase = s.phase := rfl
@[simp] theorem absorbPause_out (s : State) : (s.absorbPause).out = s.out := rfl
@[simp] theorem absorbPause_faults (s : State) : (s.absorbPause).faults = s.faults := rfl
@[simp] theorem absorbPause_results (s : State) : (s.absorbPause).results = s.results := rfl
@[simp] theorem absorbPause_inService (s : State) : (s.absorbPause).inService = s.inService := rfl
@[simp] theorem absorbPause_rx (s : State) : (s.absorbPause).rx = s.rx := rfl
@[simp] theorem absorbPause_line (s : State) : (s.absorbPause).line = s.line := rfl
@[simp] theorem absorbPause_beyond (s : State) : (s.absorbPause).beyond = s.beyond := rfl
@[simp] theorem absorbPause_ops (s : State) : (s.absorbPause).ops = s.ops := rfl

/-! ### `consumePause` -/

@[simp] theorem consumePause_variant (s : State) : (s.consumePause).variant = s.variant := rfl
@[simp] theorem consumePause_pauseId (s : State) : (s.consumePause).pauseId = s.pauseId := rfl
@[simp] theorem consumePause_brk (s : State) : (s.consumePause).brk = s.brk := rfl
@[simp] theorem consumePause_ext (s : State) : (s.consumePause).ext = s.ext := rfl
@[simp] theorem consumePause_pst (s : State) : (s.consumePause).pst = if s.pst = .one then .zero else s.pst := rfl
@[simp] theorem consumePause_table (s : State) : (s.consumePause).table = s.table := rfl
@[simp] theorem consumePause_phase (s : State) : (s.consumePause).phase = s.phase := rfl
@[simp] theorem consumePause_out (s : State) : (s.consumePause).out = s.out := rfl
@[simp] theorem consumePause_faults (s : State) : (s.consumePause).faults = s.faults := rfl
@[simp] theorem consumePause_results (s : State) : (s.consumePause).results = s.results := rfl
@[simp] theorem consumePause_inService (s : State) : (s.consumePause).inService = s.inService := rfl
@[simp] theorem consumePause_rx (s : State) : (s.consumePause).rx = s.rx := rfl
@[simp] theorem consumePause_line (s : State) : (s.consumePause).line = s.line := rfl
@[simp] theorem consumePause_beyond (s : State) : (s.consumePause).beyond = s.beyond := rfl
@[simp] theorem consumePause_ops (s : State) : (s.consumePause).ops = s.ops := rfl

/-! ### `consumeExt` -/

@[simp] theorem consumeExt_variant (s : State) : (s.consumeExt).variant = s.variant := rfl
@[simp] theorem consumeExt_pauseId (s : State) : (s.consumeExt).pauseId = s.pauseId := rfl
@[simp] theorem consumeExt_brk (s : State) : (s.consumeExt).brk = s.brk := rfl
@[simp] theorem consumeExt_ext (s : State) : (s.consumeExt).ext = false := rfl
@[simp] theorem consumeExt_pst (s : State) : (s.consumeExt).pst = s.pst := rfl
@[simp] theorem consumeExt_table (s : State) : (s.consumeExt).table = s.table := rfl
@[simp] theorem consumeExt_phase (s : State) : (s.consumeExt).phase = s.phase := rfl
@[simp] theorem consumeExt_out (s : State) : (s.consumeExt).out = s.out := rfl
@[simp] theorem consumeExt_faults (s : State) : (s.consumeExt).faults = s.faults := rfl
@[simp] theorem consumeExt_results (s : State) : (s.consumeExt).results = s.results := rfl
@[simp] theorem consumeExt_inService (s : State) : (s.consumeExt).inService = s.inService := rfl
@[simp] theorem consumeExt_rx (s : State) : (s.consumeExt).rx = s.rx := rfl
@[simp] theorem consumeExt_line (s : State) : (s.consumeExt).line = s.line := rfl
@[simp] theorem consumeExt_beyond (s : State) : (s.consumeExt).beyond = s.beyond := rfl
@[simp] theorem consumeExt_ops (s : State) : (s.consumeExt).ops = s.ops := rfl

/-! ### `consumeBrk` -/

@[simp] theorem consumeBrk_variant (s : State) : (s.consumeBrk).variant = s.variant := rfl
@[simp] theorem consumeBrk_pauseId (s : State) : (s.consumeBrk).pauseId = s.pauseId := rfl
@[simp] theorem consumeBrk_brk (s : State) : (s.consumeBrk).brk = false := rfl
@[simp] theorem consumeBrk_ext (s : State) : (s.consumeBrk).ext = s.ext := rfl
@[simp] theorem consumeBrk_pst (s : State) : (s.consumeBrk).pst = s.pst := rfl
@[simp] theorem consumeBrk_table (s : State) : (s.consumeBrk).table = s.table := rfl
@[simp] theorem consumeBrk_phase (s : State) : (s.consumeBrk).phase = s.phase := rfl
@[simp] theorem consumeBrk_out (s : State) : (s.consumeBrk).out = s.out := rfl
@[simp] theorem consumeBrk_faults (s : State) : (s.consumeBrk).faults = s.faults := rfl
@[simp] theorem consumeBrk_results (s : State) : (s.consumeBrk).results = s.results := rfl
@[simp] theorem consumeBrk_inService (s : State) : (s.consumeBrk).inService = s.inService := rfl
@[simp] theorem consumeBrk_rx (s : State) : (s.consumeBrk).rx = s.rx := rfl
@[simp] theorem consumeBrk_line (s : State) : (s.consumeBrk).line = s.line := rfl
@[simp] theorem consumeBrk_beyond (s : State) : (s.consumeBrk).beyond = s.beyond := rfl
@[simp] theorem consumeBrk_ops (s : State) : (s.consumeBrk).ops = s.ops := rfl

/-! ### `resetOf` -/

@[simp] theorem resetOf_variant (v : Variant) (p : Byte) : (State.resetOf v p).variant = v := rfl
@[simp] theorem resetOf_pauseId (v : Variant) (p : Byte) : (State.resetOf v p).pauseId = p := rfl
@[simp] theorem resetOf_brk (v : Variant) (p : Byte) : (State.resetOf v p).brk = false := rfl
@[simp] theorem resetOf_ext (v : Variant) (p : Byte) : (State.resetOf v p).ext = false := rfl
@[simp] theorem resetOf_pst (v : Variant) (p : Byte) : (State.resetOf v p).pst = .zero := rfl
@[simp] theorem resetOf_table (v : Variant) (p : Byte) : (State.resetOf v p).table = [] := rfl
@[simp] theorem resetOf_phase (v : Variant) (p : Byte) : (State.resetOf v p).phase = .setup := rfl
@[simp] theorem resetOf_out (v : Variant) (p : Byte) : (State.resetOf v p).out = [] := rfl
@[simp] theorem resetOf_faults (v : Variant) (p : Byte) : (State.resetOf v p).faults = [] := rfl
@[simp] theorem resetOf_results (v : Variant) (p : Byte) : (State.resetOf v p).results = [] := rfl
@[simp] theorem resetOf_inService (v : Variant) (p : Byte) : (State.resetOf v p).inService = false := rfl
@[simp] theorem resetOf_rx (v : Variant) (p : Byte) : (State.resetOf v p).rx = [] := rfl
@[simp] theorem resetOf_line (v : Variant) (p : Byte) : (State.resetOf v p).line = [] := rfl
@[simp] theorem resetOf_beyond (v : Variant) (p : Byte) : (State.resetOf v p).beyond = .silent := rfl
@[simp] theorem resetOf_ops (v : Variant) (p : Byte) : (State.resetOf v p).ops = [] := rfl

end Sys2Proof.Machine
end

