-- ==== Sys2Proof/Laws/Memory.lean ====
section
/-! SUPPORT. What the table operations do: every entry after a whole-table write, and the canonical
form, which each of them keeps. -/

namespace Sys2Proof.Machine

@[simp] theorem readAt_nil (k : Nat) : Memory.readAt [] k = tableDefault := rfl

theorem readAt_below (vs : List Byte) (a k : Nat) (h : k < a) :
    (Memory.ofList a vs).readAt k = tableDefault := by
  induction vs generalizing a with
  | nil => rfl
  | cons v vs ih =>
    unfold Memory.ofList
    have hk : k < a + 1 := by omega
    split
    · exact ih _ hk
    · have hne : a ≠ k := by omega
      simp only [Memory.readAt, if_neg hne]
      exact ih _ hk

/-- Reading a table built from a list gives the list's element, and the default past its end. -/
theorem readAt_ofList (vs : List Byte) (a k : Nat) :
    (Memory.ofList a vs).readAt (a + k) = vs.getD k tableDefault := by
  induction vs generalizing a k with
  | nil => simp [Memory.ofList]
  | cons v vs ih =>
    unfold Memory.ofList
    cases k with
    | zero =>
      split
      next hv => rw [readAt_below _ _ _ (by omega)]; simp [hv]
      next => simp [Memory.readAt]
    | succ k =>
      have hne : a ≠ a + (k + 1) := by omega
      have hshift : a + (k + 1) = a + 1 + k := by omega
      split
      · rw [hshift, ih]; rfl
      · simp only [Memory.readAt, if_neg hne]
        rw [hshift, ih]; rfl

/-- After a whole-table write every index reads the entry given for it. -/
theorem read_ofEntries (e : Vector Byte 256) (i : Byte) :
    (Memory.ofEntries e).read i = e[i.toNat]'i.isLt := by
  have h := readAt_ofList e.toList 0 i.toNat
  rw [Nat.zero_add] at h
  rw [Memory.read, Memory.ofEntries, h, List.getD_eq_getElem?_getD,
    List.getElem?_eq_getElem (by simpa using i.isLt)]
  rfl

@[simp] theorem read_empty (i : Byte) : Memory.read [] i = tableDefault := rfl

theorem wfFrom_mono (m : Memory) (lo lo' : Nat) (hl : lo' ≤ lo) (h : m.wfFrom lo = true) :
    m.wfFrom lo' = true := by
  cases m with
  | nil => rfl
  | cons c rest =>
    obtain ⟨a, v⟩ := c
    simp only [Memory.wfFrom, Bool.and_eq_true, decide_eq_true_eq] at h ⊢
    obtain ⟨⟨⟨h1, h2⟩, h3⟩, h4⟩ := h
    exact ⟨⟨⟨by omega, h2⟩, h3⟩, h4⟩

theorem wfFrom_ofList (vs : List Byte) (a : Nat) (h : a + vs.length ≤ 256) :
    (Memory.ofList a vs).wfFrom a = true := by
  induction vs generalizing a with
  | nil => rfl
  | cons v vs ih =>
    rw [List.length_cons] at h
    have hrest := ih (a + 1) (by omega)
    unfold Memory.ofList
    split
    · exact wfFrom_mono _ _ _ (Nat.le_succ a) hrest
    next hv => simp [Memory.wfFrom, hrest, hv]; omega

/-- A whole-table write leaves the table in canonical form. -/
@[simp] theorem wf_ofEntries (e : Vector Byte 256) : (Memory.ofEntries e).wf = true :=
  wfFrom_ofList e.toList 0 (by simp)

/-- The reset table is in canonical form. -/
@[simp] theorem wf_empty : Memory.wf [] = true := rfl

end Sys2Proof.Machine
end

