-- ==== Sys2Proof/Laws/Ops.lean ====
section
/-! SUPPORT. One lemma per shared operation: everything it can do. -/

namespace Sys2Proof.Machine

/-- Where `feed` is admitted, its meaning is a next state. -/
theorem admitFeed_admitted {v : Variant} {s : State} (f : State → Fed) (hp : s.phase = .running)
    (hv : s.variant = v) : admitFeed v s f = .next (f s).state := by
  simp [admitFeed, hp, hv]

/-- `feed` gives a next state only where it is admitted, and then that of its effect. -/
theorem admitFeed_next {v : Variant} {s t : State} {f : State → Fed} (h : admitFeed v s f = .next t) :
    s.phase = .running ∧ s.variant = v ∧ t = (f s).state := by
  unfold admitFeed at h
  split at h
  next hp =>
    split at h
    next hv => injection h with h; exact ⟨hp, hv, h.symm⟩
    next => cases h
  next => cases h

/-- Outside `Running`, `feed` has no step. -/
theorem admitFeed_notRunning {v : Variant} {s : State} (f : State → Fed) (hp : s.phase ≠ .running) :
    admitFeed v s f = .fault (.feedNotEnabled s.phase) := by
  simp [admitFeed, hp]

/-- `has_data()` in words. -/
theorem hasData_iff (s : State) : s.hasData = true ↔ s.phase = .running ∧ s.rx ≠ [] := by
  cases hrx : s.rx <;> simp [State.hasData, hrx]

/-- Fetching gives the instruction of the oldest waiting byte and consumes that byte. -/
theorem fetch_some {s t : State} {i : Instr} (h : s.fetch = some (i, t)) :
    s.phase = .running ∧ ∃ b rest, s.rx = b :: rest ∧ i = decodeByte s.variant b ∧ t = s.setRx rest := by
  unfold State.fetch at h
  split at h
  next hd =>
    obtain ⟨hp, hne⟩ := (hasData_iff s).1 hd
    cases hrx : s.rx with
    | nil => exact absurd hrx hne
    | cons b rest =>
      rw [hrx] at h
      simp only [decode, Option.some.injEq, Prod.mk.injEq] at h
      exact ⟨hp, b, rest, rfl, h.1.symm, h.2.symm⟩
  next => cases h

/-- A waiting byte is fetched while reception is enabled. -/
theorem fetch_waiting {s : State} {b : Byte} {rest : List Byte} (hp : s.phase = .running)
    (hrx : s.rx = b :: rest) : s.fetch = some (decodeByte s.variant b, s.setRx rest) := by
  simp [State.fetch, State.hasData, hp, hrx, decode]

/-- Nothing is fetched exactly when `has_data()` is false. -/
theorem fetch_none {s : State} (h : s.hasData = false) : s.fetch = none := by
  simp [State.fetch, h]

/-- A data byte is absorbed at `pst == 2`. -/
theorem feedData_absorbed {s : State} (d : Byte) (h : s.pst = .two) :
    feedData d s = ⟨none, s.absorbPause⟩ := by
  simp [feedData, h]

/-- A data byte is resolved into an event at `pst` 0 and 1, and then all three fields are clear. -/
theorem feedData_resolved {s : State} (d : Byte) (h : s.pst ≠ .two) :
    feedData d s = ⟨some (dataEvent s d),
      { s with brk := false, ext := false, pst := .zero, out := s.out ++ frame (dataEvent s d) }⟩ := by
  have hz : (if s.pst = .one then PauseStage.zero else s.pst) = .zero := by
    cases hp : s.pst with
    | zero => rfl
    | one => rfl
    | two => exact absurd hp h
  simp [feedData, h, State.consumePause, State.consumeExt, State.consumeBrk, State.emit, hz]

/-- What every `feed` leaves as it was, in words of the state after it: the table, the phase, the
parameters, the records and the surroundings. -/
theorem feedInstr_frame (i : Instr) (s : State) :
    (feedInstr i s).state =
      { s with brk := (feedInstr i s).state.brk, ext := (feedInstr i s).state.ext,
               pst := (feedInstr i s).state.pst, out := (feedInstr i s).state.out } := by
  cases i with
  | mbData d =>
    by_cases h : s.pst = .two
    · simp [feedInstr, feedData_absorbed d h, State.absorbPause]
    · simp [feedInstr, feedData_resolved d h]
  | _ => rfl

/-- Each meaning is `feed` in the variant of its instruction. -/
theorem exec_eq_admitFeed (i : Instr) (s : State) : exec i s = admitFeed i.variant s (feedInstr i) := by
  cases i <;> rfl

/-- If an instruction gives a next state, it was admitted and the state is that of its `feed`. -/
theorem exec_next {i : Instr} {s t : State} (h : exec i s = .next t) :
    s.phase = .running ∧ s.variant = i.variant ∧ t = (feedInstr i s).state := by
  rw [exec_eq_admitFeed] at h
  exact admitFeed_next h

/-- What a host operation that gives a next state can have done. -/
theorem execHost_next {op : HostOp} {s t : State} (h : execHost op s = .next t) :
    (op = .reset ∧ t = s.clear) ∨
    (∃ e, op = .configure e ∧ s.phase = .setup ∧ t = s.setTable e) ∨
    (∃ e, op = .configure e ∧ s.phase ≠ .setup ∧ t = s.raise (.configError s.phase)) ∨
    (op = .enable ∧ s.phase = .setup ∧ t = s.setPhase .running) ∨
    (op = .disable ∧ t = s.setPhase .stopped) ∨
    (op = .service ∧ s.hasData = true ∧ t = s.enterHandler) ∨
    (op = .service ∧ s.phase ≠ .stopped ∧ s.hasData = false ∧ t = s.notHandled) := by
  cases op with
  | reset => exact .inl ⟨rfl, by simpa [execHost, opReset] using h.symm⟩
  | configure e =>
    simp only [execHost, opConfigure] at h
    split at h
    next hp => injection h with h; exact .inr (.inl ⟨e, rfl, hp, h.symm⟩)
    next hp => injection h with h; exact .inr (.inr (.inl ⟨e, rfl, hp, h.symm⟩))
  | enable =>
    simp only [execHost, opEnable] at h
    split at h
    next hp => injection h with h; exact .inr (.inr (.inr (.inl ⟨rfl, hp, h.symm⟩)))
    next => cases h
  | disable =>
    exact .inr (.inr (.inr (.inr (.inl ⟨rfl, by simpa [execHost, opDisable] using h.symm⟩))))
  | service =>
    simp only [execHost, opService] at h
    split at h
    next => cases h
    next hp =>
      split at h
      next hd =>
        injection h with h
        exact .inr (.inr (.inr (.inr (.inr (.inl ⟨rfl, hd, h.symm⟩)))))
      next hd =>
        injection h with h
        exact .inr (.inr (.inr (.inr (.inr (.inr ⟨rfl, hp, by simpa using hd, h.symm⟩)))))

end Sys2Proof.Machine
end

