-- ==== Sys2Proof/Laws/PerInstr.lean ====
section
/-! SUPPORT. The per-instruction family `OneByte`: every instruction is encoded in exactly one byte, and
decoding consumes exactly that byte, in whichever variant it is read (rule R70). -/

namespace Sys2Proof.Laws.OneByte

/-- What is said of each instruction. -/
def Statement (i : Instr) : Prop :=
  (encode i).length = 1 ∧
    ∀ (v : Variant) (rest : List Byte), ∃ j, decode v (encode i ++ rest) = .ok (j, rest)

theorem of_encode (i : Instr) : Statement i := ⟨rfl, fun v _ => ⟨decodeByte v (encodeByte i), rfl⟩⟩

theorem mbOvr : Statement .mbOvr := of_encode _
theorem mbBrk : Statement .mbBrk := of_encode _
theorem mbExt : Statement .mbExt := of_encode _
theorem mbPau : Statement .mbPau := of_encode _
theorem mbData (d : Byte) : Statement (.mbData d) := of_encode _
theorem sbMake (i : BitVec 7) : Statement (.sbMake i) := of_encode _
theorem sbBreak (i : BitVec 7) : Statement (.sbBreak i) := of_encode _

end Sys2Proof.Laws.OneByte
end

