-- ==== Sys2Proof/Laws/Step.lean ====
section
/-! SUPPORT. Everything a step can do, said once. -/

namespace Sys2Proof.Machine

/-- Using up a moment changes the link's moments and nothing else. -/
theorem moment_some {s u : State} {m : Arrival} (h : s.moment = some (m, u)) :
    ∃ l y, u = s.setLine l y := by
  unfold State.moment at h
  split at h
  · injection h with h; injection h with _ h; exact ⟨_, _, h.symm⟩
  · split at h
    · cases h
    · cases h
    · injection h with h; injection h with _ h; exact ⟨_, _, h.symm⟩
    · injection h with h; injection h with _ h; exact ⟨_, _, h.symm⟩

/-- Using up a gap changes the link's moments and nothing else. -/
theorem takeGap_eq (s : State) : ∃ l y, s.takeGap = s.setLine l y := by
  unfold State.takeGap
  split
  · split
    next u hm => exact moment_some hm
    next => exact ⟨s.line, s.beyond, rfl⟩
  · exact ⟨s.line, s.beyond, rfl⟩

/-- If a byte is arriving, reception is enabled, it is the link's next moment, and only that moment is
used up. -/
theorem arriving_some {s u : State} {b : Byte} (h : s.arriving = some (b, u)) :
    s.phase = .running ∧ s.moment = some (.byte b, u) ∧ ∃ l y, u = s.setLine l y := by
  unfold State.arriving at h
  split at h
  next hp =>
    split at h
    next b' u' hm =>
      simp only [Option.some.injEq, Prod.mk.injEq] at h
      obtain ⟨rfl, rfl⟩ := h
      exact ⟨hp, hm, moment_some hm⟩
    next => cases h
  next => cases h

/-- Outside `Running` no byte arrives and no moment is used up. -/
theorem moment_kept {s : State} (h : s.phase ≠ .running) : s.arriving = none ∧ s.takeGap = s := by
  simp [State.arriving, State.takeGap, h]

/-- With no moment left no byte arrives and none is used up. -/
theorem moment_none {s : State} (h : s.moment = none) : s.arriving = none ∧ s.takeGap = s := by
  simp [State.arriving, State.takeGap, h]

/-- A gap that is the next moment lets no byte arrive and is used up. -/
theorem moment_gap {s u : State} (hp : s.phase = .running) (h : s.moment = some (.gap, u)) :
    s.arriving = none ∧ s.takeGap = u := by
  simp [State.arriving, State.takeGap, hp, h]

/-- A byte that is the next moment arrives. -/
theorem moment_byte {s u : State} {b : Byte} (hp : s.phase = .running)
    (h : s.moment = some (.byte b, u)) : s.arriving = some (b, u) := by
  simp [State.arriving, hp, h]

/-- The step of an arrival. -/
theorem step_arriving {s u : State} {b : Byte} (h : s.arriving = some (b, u)) :
    step s = .next (u.receive b) := by
  simp only [step, nextMove, h]

/-- Where no byte arrives, the step is the move of the block or its host, with the gap used up. -/
theorem step_action {s : State} (h : s.arriving = none) :
    step s = match action s.takeGap with
      | .feed i u => exec i u
      | .other r => r := by
  have e : nextMove s = action s.takeGap := by simp only [nextMove, h]
  rw [← e]; rfl

/-- A step that gives a next state is one of: an arrival; a `feed` of the oldest waiting byte; the
handler's return; a host operation; the interrupt; or nothing. -/
theorem step_cases {s t : State} (h : step s = .next t) :
    (∃ b l y, s.phase = .running ∧ s.arriving = some (b, s.setLine l y) ∧
      t = (s.setLine l y).receive b) ∨
    (s.arriving = none ∧ ∃ l y, s.takeGap = s.setLine l y ∧
      ((s.inService = true ∧ s.phase = .running ∧ ∃ b rest, s.rx = b :: rest ∧
          exec (decodeByte s.variant b) ((s.setLine l y).setRx rest) = .next t) ∨
       (s.inService = true ∧ s.hasData = false ∧ t = (s.setLine l y).leaveHandler) ∨
       (s.inService = false ∧ ∃ op rest, s.ops = op :: rest ∧
          execHost op ((s.setLine l y).setOps rest) = .next t) ∨
       (s.inService = false ∧ s.ops = [] ∧ s.hasData = true ∧ t = (s.setLine l y).enterHandler) ∨
       (s.inService = false ∧ s.ops = [] ∧ s.hasData = false ∧ t = s.setLine l y))) := by
  cases ha : s.arriving with
  | some bl =>
    obtain ⟨b, u⟩ := bl
    obtain ⟨hp, -, l, y, rfl⟩ := arriving_some ha
    rw [step_arriving ha] at h
    injection h with h
    exact .inl ⟨b, l, y, hp, rfl, h.symm⟩
  | none =>
    obtain ⟨l, y, hg⟩ := takeGap_eq s
    refine .inr ⟨rfl, l, y, hg, ?_⟩
    have hdata : (s.setLine l y).hasData = s.hasData := rfl
    simp only [step, nextMove, ha, hg, action, setLine_inService, setLine_ops, hdata] at h
    cases hs : s.inService with
    | true =>
      cases hd : s.hasData with
      | true =>
        obtain ⟨hp, hne⟩ := (hasData_iff s).1 hd
        cases hrx : s.rx with
        | nil => exact absurd hrx hne
        | cons b rest =>
          have hf := fetch_waiting (s := s.setLine l y) (b := b) (rest := rest) hp hrx
          simp only [hs, if_true, hf] at h
          exact .inl ⟨rfl, hp, b, rest, rfl, h⟩
      | false =>
        have hf := fetch_none (s := s.setLine l y) hd
        simp only [hs, if_true, hf] at h
        injection h with h
        exact .inr (.inl ⟨rfl, rfl, h.symm⟩)
    | false =>
      cases hops : s.ops with
      | cons op rest =>
        simp only [hs, hops] at h
        exact .inr (.inr (.inl ⟨rfl, op, rest, rfl, h⟩))
      | nil =>
        cases hd : s.hasData with
        | true =>
          obtain ⟨hp, -⟩ := (hasData_iff s).1 hd
          simp [hs, hops, hd, opService, hp, hdata] at h
          exact .inr (.inr (.inr (.inl ⟨rfl, rfl, rfl, h.symm⟩)))
        | false =>
          simp [hs, hops, hd] at h
          exact .inr (.inr (.inr (.inr ⟨rfl, rfl, rfl, h.symm⟩)))

/-- A run of no step is where it starts. -/
theorem run_zero (s : State) : Host.Core.run core 0 s = .next s := rfl

/-- A run of any core whose first step gives `t` is the rest of the run from `t`. -/
theorem core_run_next (M : Host.Core) {s t : M.State} (k : Nat) (h : M.step s = .next t) :
    M.run (k + 1) s = M.run k t := by
  rw [Host.Core.run, h]

/-- A run whose first step gives `t` is the rest of the run from `t`. -/
theorem run_next {s t : State} (k : Nat) (h : step s = .next t) :
    Host.Core.run core (k + 1) s = Host.Core.run core k t :=
  core_run_next core k h

end Sys2Proof.Machine
end

