-- ==== Sys2Proof/Tests/Slice0.lean ====
section
/-! SUPPORT. The model's own tests. Expected results are those of `95_test_vectors.md` (the vector is named
in each docstring) or are written out from the tables of `30_encoding.md`. `PAUSE_ID` is `0x62` here, a
value picked for the tests, as there. -/

namespace Sys2Proof.Tests

open Sys2Proof.Machine

/-- The state an outcome goes on with. -/
def after : Result → Option State
  | .next s => some s
  | _ => none

/-- The fault an outcome stops with. -/
def faultOf : Result → Option Fault
  | .fault f => some f
  | _ => none

/-- A multi-byte instance that receives bytes, in the given decoder state and with the given entries. -/
def mb (brk ext : Bool) (pst : PauseStage) (cells : Memory := []) : State :=
  { State.resetOf .multiByte 0x62#8 with phase := .running, brk, ext, pst, table := cells }

/-- A single-byte instance that receives bytes. -/
def sb (cells : Memory := []) : State :=
  { State.resetOf .singleByte 0x62#8 with phase := .running, table := cells }

/-- The decoder's triple. -/
def triple (s : State) : Bool × Bool × PauseStage := (s.brk, s.ext, s.pst)

/-- The state the handler feeds from: these bytes wait at the Byte Source. -/
def draining (s : State) (bytes : List Byte) : State := { s with inService := true, rx := bytes }

/-- An array whose one entry that is not 0 is given. -/
def oneEntry (i : Nat) (v : Byte) : Vector Byte 256 := (Vector.replicate 256 0#8).set! i v

/-! ### Well-formedness refuses each ill-formed term -/

theorem test_wf_data_ovr : (Instr.mbData 0xFF#8).wellFormed = false := by decide
theorem test_wf_data_brk : (Instr.mbData 0xF0#8).wellFormed = false := by decide
theorem test_wf_data_ext : (Instr.mbData 0xE0#8).wellFormed = false := by decide
theorem test_wf_data_pau : (Instr.mbData 0xE1#8).wellFormed = false := by decide
theorem test_wf_format : (Instr.sbMake 5#7).wellFormedIn .multiByte = false := by decide
theorem test_wf_keyDown : (Unit76.keyDown 0xE0#8).wellFormed = false := by decide
theorem test_wf_keyUp : (Unit76.keyUp 0xF0#8).wellFormed = false := by decide
theorem test_wf_xKeyDown : (Unit76.xKeyDown 0xFF#8).wellFormed = false := by decide
theorem test_wf_xKeyUp : (Unit76.xKeyUp 0xE1#8).wellFormed = false := by decide
theorem test_wf_pause_first : (Unit76.pauseKey 0xFF#8 0x77#8).wellFormed = false := by decide
theorem test_wf_pause_second : (Unit76.pauseKey 0x14#8 0xF0#8).wellFormed = false := by decide

/-! ### Decoding words written out from rules R71, R73 and R74 -/

theorem test_decode_ovr : decodeTableWord 8 0b11111111 = some .mbOvr := by decide
theorem test_decode_brk : decodeTableWord 8 0b11110000 = some .mbBrk := by decide
theorem test_decode_ext : decodeTableWord 8 0b11100000 = some .mbExt := by decide
theorem test_decode_pau : decodeTableWord 8 0b11100001 = some .mbPau := by decide
theorem test_decode_data_low : decodeTableWord 8 0b00011100 = some (.mbData 0x1C#8) := by decide
theorem test_decode_data_beside_sentinels :
    [0b11100010, 0b11101111, 0b11110001, 0b11111110].map (decodeTableWord 8)
      = [some (.mbData 0xE2#8), some (.mbData 0xEF#8), some (.mbData 0xF1#8), some (.mbData 0xFE#8)] := by
  decide
theorem test_decode_make : decode .singleByte [0b00000101#8] = .ok (.sbMake 5#7, []) := by decide
theorem test_decode_break :
    decode .singleByte [0b11111111#8, 0b00000000#8] = .ok (.sbBreak 0x7F#7, [0#8]) := by decide
theorem test_decode_nothing : decode .multiByte [] = .error .noByte := by decide

/-! ### Instructions -/

/-- V2. -/
theorem test_ovr_keeps_everything :
    after (exec .mbOvr (mb true true .one)) = some (mb true true .one) := by decide
/-- V6. -/
theorem test_brk_in_pause_sequence :
    (after (exec .mbBrk (mb false false .one))).map triple = some (true, false, .one) := by decide
/-- V9. -/
theorem test_ext_in_pause_sequence :
    (after (exec .mbExt (mb false false .two))).map triple = some (false, true, .two) := by decide
/-- V11. -/
theorem test_pau_restarts :
    (after (exec .mbPau (mb false false .one))).map triple = some (false, false, .two) := by decide
/-- V29: steps 1, 2 and 4 on one byte. -/
theorem test_data_consumes_all_three_fields :
    (after (exec (.mbData 0x77#8) (mb true true .one [(0x62, 119#8), (0xE2, 200#8)]))).map
      (fun s => (triple s, s.out))
      = some ((false, false, .zero), [.reportKey 200#8 false, .sync]) := by decide
/-- V25. -/
theorem test_data_absorbed :
    (after (exec (.mbData 0x1C#8) (mb true true .two [(0x1C, 30#8)]))).map (fun s => (triple s, s.out))
      = some ((true, true, .one), []) := by decide
/-- S9a, V52. -/
theorem test_make_presses :
    (after (exec (.sbMake 5#7) (sb [(5, 2#8)]))).map State.out
      = some [.reportKey 2#8 true, .sync] := by decide
/-- V55: `0xFF` is a release in this variant. -/
theorem test_break_ff_releases_7f :
    (after (exec (decodeByte .singleByte 0xFF#8) (sb [(0x7F, 9#8)]))).map State.out
      = some [.reportKey 9#8 false, .sync] := by decide
/-- V88. -/
theorem test_no_feed_when_stopped :
    faultOf (exec (.mbData 0x1C#8) { mb false false .zero with phase := .stopped })
      = some (.feedNotEnabled .stopped) := by decide
/-- A row of the other format is never tried (rule R87). -/
theorem test_other_format_has_no_step : after (exec (.sbMake 5#7) (mb false false .zero)) = none := by decide

/-! ### The step -/

/-- V21, through the drain loop: the byte is consumed and the release emitted. -/
theorem test_step_feeds_oldest_byte :
    (after (step (draining (mb true false .zero [(0x1C, 30#8)]) [0x1C#8, 0x5A#8]))).map
      (fun s => (triple s, s.out, s.rx))
      = some ((false, false, .zero), [.reportKey 30#8 false, .sync], [0x5A#8]) := by decide
/-- The fetch word runs as the first instruction after reset. -/
theorem test_fetch_word_runs_first :
    (after (step (State.reset.withFetchWord 8 0xF0))).map (fun s => (triple s, s.rx, s.line))
      = some ((true, false, .zero), [], []) := by decide
/-- Between bytes the block does nothing (rule R187). -/
theorem test_reset_is_idle : (after (step State.reset)).map (fun s => (s.phase, triple s, s.out))
    = some (.setup, (false, false, .zero), []) := by decide

/-- A repeating supply delivers its first moment and keeps it for later (assumption 20). -/
theorem test_repeating_supply_delivers :
    (after (step { mb false false .zero with beyond := .repeating [.byte 0x1C#8, .gap] })).map
      (fun s => (s.rx, s.beyond))
      = some ([0x1C#8], .repeating [.gap, .byte 0x1C#8]) := by decide

/-! ### Host operations -/

/-- V61. -/
theorem test_configure_sets_one_entry :
    (after (execHost (.configure (oneEntry 0x1C 30#8)) (State.resetOf .multiByte 0#8))).map
      (fun s => (s.lookup 0x1C#8, s.lookup 0x1D#8)) = some (30#8, 0#8) := by decide +kernel
/-- V64: the whole table is replaced, nothing is merged. -/
theorem test_configure_zeroes_replace :
    (after (execHost (.configure (Vector.replicate 256 0#8))
      { State.resetOf .multiByte 0#8 with table := [(0x1C, 30#8)] })).map State.table = some [] := by decide +kernel
/-- V65. -/
theorem test_late_configure_faults :
    after (execHost (.configure (oneEntry 0x1C 31#8)) (mb false false .zero [(0x1C, 30#8)]))
      = some { mb false false .zero [(0x1C, 30#8)] with faults := [.configError .running] } := by decide
/-- V80 and V82. -/
theorem test_enable :
    (after (execHost .enable (State.resetOf .singleByte 0#8))).map State.phase = some .running ∧
    after (execHost .enable { mb false false .zero with phase := .stopped }) = none := by decide
/-- V84. -/
theorem test_disable_keeps_fields :
    (after (execHost .disable (mb true false .zero))).map (fun s => (s.phase, triple s))
      = some (.stopped, (true, false, .zero)) := by decide
/-- V86. -/
theorem test_reset_from_stopped :
    after (execHost .reset { mb true false .zero [(0x1C, 30#8)] with phase := .stopped })
      = some (State.resetOf .multiByte 0x62#8) := by decide
/-- V90 and V95. -/
theorem test_service_not_handled :
    (after (execHost .service (mb false false .zero))).map State.results = some [.notHandled] ∧
    (after (execHost .service (State.resetOf .multiByte 0#8))).map State.results = some [.notHandled] := by
  decide
/-- V96. -/
theorem test_service_stopped :
    faultOf (execHost .service { mb false false .zero with phase := .stopped, rx := [0x1C#8] })
      = some .handlerDetached := by decide

/-! ### Every statement's hypotheses are met: one witness per statement, one clause each where several -/

theorem witness_DecodeOfEncodeGivesBack :
    (Instr.mbData 0xE2#8).wellFormed = true ∧ (Instr.sbBreak 0x7F#7).wellFormed = true := by decide

theorem witness_EveryByteSelectsExactlyOneOperation :
    (mb false false .zero).phase = .running ∧
    (Instr.mbData 0xFE#8).wellFormedIn .multiByte = true ∧ encode (.mbData 0xFE#8) = [0xFE#8] := by decide

theorem witness_StepRunsTheDecodedInstruction :
    let s := draining (mb false false .zero) [0xF0#8, 0x1C#8]
    let u := { s with line := [.gap] }
    s.inService = true ∧ s.phase = .running ∧ s.rx = [0xF0#8, 0x1C#8] ∧
    decode s.variant s.rx = .ok (.mbBrk, [0x1C#8]) ∧ s.arriving = none ∧ s.line = [] ∧
    s.beyond = .silent ∧
    u.inService = true ∧ u.phase = .running ∧ u.rx = [0xF0#8, 0x1C#8] ∧
    decode u.variant u.rx = .ok (.mbBrk, [0x1C#8]) ∧ u.arriving = none ∧ u.line = [.gap] := by decide

theorem witness_AdmittedInstructionsComplete :
    (mb false false .zero).phase = .running ∧ (mb false false .zero).variant = Instr.mbOvr.variant ∧
    sb.phase = .running ∧ sb.variant = (Instr.sbMake 0#7).variant := by decide

theorem witness_NoInstructionRunsUnlessReceptionIsEnabled :
    (State.resetOf .multiByte 0#8).phase ≠ .running := by decide

theorem witness_OtherFormatIsRefused : sb.phase = .running ∧ sb.variant ≠ Instr.mbBrk.variant := by decide

theorem witness_OverrunMarkerIsDiscarded :
    (mb true false .two).phase = .running ∧ (mb true false .two).variant = .multiByte := by decide

theorem witness_BreakLeadInSetsPendingBreak :
    let s := mb true false .one
    let u := mb false true .two
    s.phase = .running ∧ s.variant = .multiByte ∧ s.brk = true ∧ s.pst = .one ∧
    u.phase = .running ∧ u.variant = .multiByte ∧ u.pst = .two ∧
    isSentinel 0x14#8 = false ∧ isSentinel 0xFE#8 = false := by decide

theorem witness_ExtendedLeadInSetsPendingExtended :
    let s := mb false true .one
    let u := mb true false .two
    s.phase = .running ∧ s.variant = .multiByte ∧ s.ext = true ∧ s.pst = .one ∧
    u.phase = .running ∧ u.variant = .multiByte ∧ u.pst = .two ∧
    isSentinel 0x00#8 = false ∧ isSentinel 0xE2#8 = false := by decide

theorem witness_PauseLeadInStartsTheSequence :
    let s := mb false false .two
    s.phase = .running ∧ s.variant = .multiByte ∧ s.pst = .two ∧
    isSentinel 0x14#8 = false ∧ isSentinel 0x77#8 = false := by decide

theorem witness_DataByteIsAbsorbedOrResolved :
    let s := mb false true .two
    let u := mb true true .one
    s.phase = .running ∧ s.variant = .multiByte ∧ s.pst = .two ∧ isSentinel 0x1C#8 = false ∧
    u.phase = .running ∧ u.variant = .multiByte ∧ u.pst ≠ .two ∧
    (0x62#8 = if u.pst = .one then u.pauseId else 0x1C#8) ∧
    (0xE2#8 = if u.ext then 0x62#8 ||| 0x80#8 else 0x62#8) := by decide

theorem witness_SecondPauseByteIsAbsorbed :
    let s := mb false false .two
    s.phase = .running ∧ s.variant = .multiByte ∧ s.pst = .two ∧
    isSentinel 0x14#8 = false ∧ isSentinel 0xE1#8 = true := by decide

theorem witness_ThirdPauseByteIsReplacedByPauseId :
    let s := mb false false .one
    let u := mb false false .zero
    isSentinel 0x77#8 = false ∧ isSentinel 0xFE#8 = false ∧
    s.phase = .running ∧ s.variant = .multiByte ∧ s.pst = .one ∧
    u.phase = .running ∧ u.variant = .multiByte ∧ u.pst = .zero := by decide

theorem witness_ExtendedMarkingSetsBitSevenOnly :
    let s := mb false true .zero
    let u := mb false true .one
    s.phase = .running ∧ s.variant = .multiByte ∧ s.ext = true ∧ s.pst ≠ .two ∧
    isSentinel 0xF5#8 = false ∧ (substPause s 0xF5#8).getLsbD 7 = true ∧
    u.phase = .running ∧ u.variant = .multiByte ∧ u.ext = true ∧ u.pst = .one := by decide

theorem witness_ReleaseExactlyWhenBreakIsPending :
    let s := mb true false .zero
    s.phase = .running ∧ s.variant = .multiByte ∧ isSentinel 0x1C#8 = false ∧ s.pst ≠ .two := by decide

theorem witness_EveryEventLeavesTheDecoderIdle :
    let s := mb true true .one
    s.phase = .running ∧ s.variant = .multiByte ∧ (feed 0x1C#8 s).event.isSome = true := by decide

theorem witness_LeadInsAreIndependentAndLastWriteWins :
    (mb false false .one).variant = .multiByte ∧
    ∀ b ∈ [0xE1#8, 0xF0#8, 0xE0#8, 0xFF#8, 0xE0#8], isSentinel b = true := by decide

theorem witness_WellFormedStreamsYieldTheirUnitsEvents :
    let s := mb false false .zero
    s.variant = .multiByte ∧ s.idle = true ∧
    ∀ u ∈ [Unit76.keyDown 0x1C#8, .keyUp 0x1C#8, .xKeyDown 0x75#8, .xKeyUp 0x75#8,
      .pauseKey 0x14#8 0x77#8, .overrun], u.wellFormed = true := by decide

theorem witness_AllTwelveTriplesAreReachable :
    (mb false false .zero).variant = .multiByte ∧ (mb false false .zero).idle = true := by decide

theorem witness_ExtendedKeyCollidesWithBitSevenByte :
    let s := mb false false .zero
    s.variant = .multiByte ∧ s.idle = true ∧ isSentinel 0x75#8 = false ∧
    isSentinel (0x75#8 ||| 0x80#8) = false := by decide

theorem witness_MakePressesTheIdentifier : sb.phase = .running ∧ sb.variant = .singleByte := by decide

theorem witness_BreakReleasesTheIdentifier :
    (sb [(5, 2#8)]).phase = .running ∧ (sb [(5, 2#8)]).variant = .singleByte := by decide

theorem witness_SingleByteLaw :
    let s := sb [(0x7F, 9#8)]
    s.phase = .running ∧ s.variant = .singleByte ∧
    ∀ k : Byte, k.toNat < 128 → Memory.read [(0x7F, 9#8), (0x80, 1#8)] k = s.table.read k := by
  refine ⟨rfl, rfl, fun k hk => ?_⟩
  have h : ¬ 128 = k.toNat := by omega
  simp [sb, Memory.read, Memory.readAt, h]

theorem witness_SentinelsChangeOnlyTheirOwnField :
    Instr.mbPau ∈ [Instr.mbOvr, .mbBrk, .mbExt, .mbPau] ∧ Instr.mbPau ≠ .mbBrk ∧ Instr.mbPau ≠ .mbExt ∧
    Instr.mbOvr ≠ .mbPau ∧ (after (exec .mbPau (mb true true .one))).isSome = true := by decide

theorem witness_EventInstructionsChangeOnlyDecoderAndTrace :
    Instr.mbData 0x1C#8 ∉ [Instr.mbOvr, .mbBrk, .mbExt, .mbPau] ∧
    (after (exec (.mbData 0x1C#8) (mb true true .two))).isSome = true ∧ (mb true true .two).pst = .two ∧
    Instr.sbBreak 5#7 ∉ [Instr.mbOvr, .mbBrk, .mbExt, .mbPau] ∧
    (Instr.sbBreak 5#7).variant = .singleByte ∧ (after (exec (.sbBreak 5#7) sb)).isSome = true := by decide

theorem witness_UnmappedKeyIsForwarded :
    let s := mb true false .zero
    s.phase = .running ∧ (feed 0x33#8 s).event = some ⟨0#8, false⟩ := by decide

theorem witness_PauseIdIsReadOnlyAtPauseStageOne :
    (mb true false .one).pst = .one ∧ (after (exec .mbExt (mb true false .one))).isSome = true ∧
    (after (exec (.sbMake 0x62#7) { sb with pst := .one })).isSome = true ∧
    (mb true false .zero).pst ≠ .one ∧
    (after (exec (.mbData 0x62#8) (mb true false .zero))).isSome = true := by decide

theorem witness_PauseIdIsReadOnlyAtPauseStageOne_form :
    (∀ d, Instr.mbExt ≠ .mbData d) ∧ ∀ d, Instr.sbMake 0x62#7 ≠ .mbData d :=
  ⟨fun _ h => Instr.noConfusion h, fun _ h => Instr.noConfusion h⟩

theorem witness_ConfigureReplacesTheWholeTable : (State.resetOf .singleByte 0#8).phase = .setup := by decide

theorem witness_LateConfigureRecordsConfigErrorOnly :
    (mb false false .zero).phase ≠ .setup ∧
    { mb false false .zero with phase := .stopped }.phase ≠ .setup := by decide

theorem witness_LastConfigureBeforeEnableIsSeen :
    let s := State.resetOf .multiByte 0x62#8
    s.phase = .setup ∧ s.inService = false ∧ s.table = (State.resetOf s.variant s.pauseId).table ∧
    [oneEntry 1 2#8, oneEntry 3 4#8].getLast? = some (oneEntry 3 4#8) ∧
    (after (execHost (.configure (oneEntry 3 4#8)) s)).isSome = true := by decide +kernel

theorem witness_CanonicalTablesThatReadAlikeAreEqual :
    Memory.wf [(0, 1#8), (255, 9#8)] = true ∧
    ∀ i : Byte, Memory.read [(0, 1#8), (255, 9#8)] i = Memory.read [(0, 1#8), (255, 9#8)] i :=
  ⟨by decide, fun _ => rfl⟩

theorem witness_TableIsConstantWhileRunning :
    let s := draining (mb false false .zero [(0x1C, 30#8)]) [0x1C#8]
    s.phase = .running ∧ (after (step s)).map State.phase = some .running := by decide

theorem witness_EnableStartsReceptionFromSetup :
    (State.resetOf .multiByte 0#8).phase = .setup ∧ (mb false false .zero).phase ≠ .setup := by decide

theorem witness_EnableStartsReceptionFromSetup_inv : Inv (State.resetOf .multiByte 0#8) :=
  ⟨rfl, rfl, fun h => Bool.noConfusion h, fun h => Variant.noConfusion h, fun _ => ⟨rfl, rfl, rfl, rfl⟩⟩

theorem witness_DisableStopsUntilReset :
    let s := { mb true false .zero with phase := .stopped }
    let u := { s with ops := [HostOp.reset] }
    s.phase = .stopped ∧ (after (step s)).map State.phase = some .stopped ∧
    u.phase = .stopped ∧ (after (step u)).map State.phase = some .setup := by decide

theorem witness_ServiceWithNothingPendingIsNotHandled :
    (mb true false .zero).phase = .running ∧ (mb true false .zero).rx = [] := by decide

theorem witness_ResetAndDisableKeepTheSurroundings :
    let s := { mb true false .zero with phase := .stopped, rx := [0x1C#8], line := [.byte 0x5A#8] }
    (after (execHost .reset s)).isSome = true ∧ (after (execHost .disable s)).isSome = true ∧
    s.phase = .stopped ∧ (after (step s)).isSome = true ∧
    (after (step { s with ops := [HostOp.reset] })).map State.phase = some .setup := by decide

theorem witness_ServiceEntryChangesNothingOfTheBlock :
    { mb true false .zero with rx := [0x1C#8] }.phase = .running ∧
    { mb true false .zero with rx := [0x1C#8] }.rx ≠ [] ∧
    { State.resetOf .multiByte 0#8 with rx := [0x1C#8] }.phase = .setup ∧
    { mb true false .zero with phase := .stopped }.phase = .stopped := by decide

theorem witness_DrainedHandlerReturnsHandled :
    let s := draining (mb true false .zero) []
    let u := { s with line := [.gap, .byte 0x1C#8] }
    s.inService = true ∧ s.hasData = false ∧ s.arriving = none ∧ s.line = [] ∧ s.beyond = .silent ∧
    u.inService = true ∧ u.hasData = false ∧ u.arriving = none ∧ u.phase = .running ∧
    u.line = [.gap, .byte 0x1C#8] := by decide

theorem witness_WaitingByteInterruptsAnIdleHost :
    let s := { mb true false .zero with rx := [0x1C#8] }
    let u := mb true false .zero
    let v := { s with phase := .stopped, line := [.byte 0x5A#8] }
    s.inService = false ∧ s.ops = [] ∧ s.arriving = none ∧ s.hasData = true ∧ s.rx ≠ [] ∧
    u.inService = false ∧ u.ops = [] ∧ u.arriving = none ∧ u.hasData = false ∧ u.line = [] ∧
    u.beyond = .silent ∧ u.rx = [] ∧
    v.inService = false ∧ v.ops = [] ∧ v.phase ≠ .running ∧
    { s with line := [.gap] }.phase = .running ∧ { s with line := [.gap] }.line = [.gap] ∧
    { u with line := [.gap] }.phase = .running ∧ { u with line := [.gap] }.line = [.gap] := by decide

theorem witness_MomentsOfTheLinkComeInOrder :
    let s := mb false false .zero
    { s with phase := .setup }.phase ≠ .running ∧ s.phase = .running ∧
    { s with line := [.byte 0x1C#8] }.line = .byte 0x1C#8 :: [] ∧
    { s with line := [.gap] }.line = .gap :: [] ∧ s.line = [] ∧ s.beyond = .silent ∧
    { s with beyond := .repeating [] }.beyond = .repeating [] ∧
    { s with beyond := .repeating [.byte 0x1C#8, .gap] }.beyond = .repeating (.byte 0x1C#8 :: [.gap]) ∧
    { s with beyond := .repeating [.gap] }.beyond = .repeating (.gap :: []) ∧
    { s with beyond := .free 0 }.beyond = .free 0 := by decide

theorem witness_BytesWaitInArrivalOrder : (mb false false .zero).phase = .running := by decide

theorem witness_ServiceDrainsEveryWaitingByte :
    [0xF0#8, 0x1C#8, 0x5A#8] ≠ [] ∧ (mb true false .zero).phase = .running ∧
    (mb true false .zero).inService = false := by decide

theorem witness_EndlessBytesKeepServiceRunning :
    let s := { draining (mb true false .zero) [] with
      beyond := .repeating [.byte 0xF0#8, .gap, .byte 0x1C#8, .gap] }
    [0xF0#8, 0x1C#8] ≠ [] ∧ s.phase = .running ∧ s.inService = true ∧ s.line = [] ∧
    s.beyond = .repeating ([0xF0#8, 0x1C#8].flatMap fun b => [.byte b, .gap]) := by decide

theorem witness_ServiceEndsOnlyWithNoDataLeft :
    let s := draining (mb true false .zero) []
    let u := draining (mb true false .zero) [0x1C#8]
    s.inService = true ∧ (after (step s)).map State.inService = some false ∧
    u.inService = true ∧ (after (step u)).map State.inService = some true := by decide

theorem witness_HostOperationsWaitForTheHandler :
    let s := { draining (mb false false .zero) [0x1C#8] with ops := [HostOp.disable] }
    s.inService = true ∧ (after (step s)).map State.ops = some [HostOp.disable] := by decide

theorem witness_StepKeepsInv_inv : Inv (draining (mb true false .two [(5, 2#8)]) [0x1C#8]) :=
  ⟨by decide, rfl, fun _ => rfl, fun h => Variant.noConfusion h, fun h => Phase.noConfusion h⟩

theorem witness_StepKeepsInv_step :
    (after (step (draining (mb true false .two [(5, 2#8)]) [0x1C#8]))).map triple
      = some (true, false, .one) := by decide

theorem witness_NoStepChangesTheParameters :
    (after (step (draining sb [0x05#8]))).map State.variant = some .singleByte := by decide

theorem witness_OnlyTheHostChangesThePhase :
    let s := { State.resetOf .multiByte 0#8 with ops := [HostOp.enable] }
    (after (step s)).map State.phase = some .running ∧ s.phase ≠ .running := by decide

theorem witness_PendingLeadInsNeverExpire :
    let s := draining (mb false false .zero) [0xF0#8]
    let u := { mb true true .one with ops := [HostOp.reset] }
    (after (step s)).map State.brk = some true ∧ s.brk = false ∧
    (after (step u)).map triple = some (false, false, .zero) := by decide

theorem witness_OnlyFeedEmitsAndOneFrameAtMost :
    (after (step (draining (mb false false .zero [(0x1C, 30#8)]) [0x1C#8]))).map State.out
      = some [.reportKey 30#8 true, .sync] := by decide

theorem witness_OnlyLateConfigureRecordsAFault :
    let s := { mb false false .zero with ops := [HostOp.configure (oneEntry 1 2#8)] }
    (after (step s)).map State.faults = some [.configError .running] ∧ s.faults = [] := by decide

theorem witness_OnlyAnUnadmittedOperationStopsTheMachine_inv :
    Inv { mb false false .zero with ops := [HostOp.enable] } :=
  ⟨by decide, rfl, fun h => Bool.noConfusion h, fun h => Variant.noConfusion h, fun h => Phase.noConfusion h⟩

theorem witness_OnlyAnUnadmittedOperationStopsTheMachine_stops :
    faultOf (step { mb false false .zero with ops := [HostOp.enable] })
      = some (.enableNotAdmitted .running) ∧
    faultOf (step { mb false false .zero with phase := .stopped, ops := [HostOp.service] })
      = some .handlerDetached := by decide

theorem witness_IllFormedDataActsAsADataByte :
    let s := mb false false .two
    let u := mb true true .one
    isSentinel 0xF0#8 = true ∧ s.phase = .running ∧ s.variant = .multiByte ∧ s.pst = .two ∧
    u.phase = .running ∧ u.variant = .multiByte ∧ u.pst ≠ .two ∧
    (0x62#8 = if u.pst = .one then u.pauseId else 0xF0#8) ∧
    (0xE2#8 = if u.ext then 0x62#8 ||| 0x80#8 else 0x62#8) := by decide

end Sys2Proof.Tests
end

namespace Sys2Proof.Machine

/-! ### The fresh instance -/

/-- Outside `Running` no instruction has a step: each is stopped by the admission of `feed` (rule R160). -/
theorem exec_notRunning {s : State} (i : Instr) (hp : s.phase ≠ .running) :
    exec i s = .fault (.feedNotEnabled s.phase) := by
  rw [exec_eq_admitFeed, admitFeed_notRunning (feedInstr i) hp]

/-- Every index of a fresh instance is unmapped (rule R34). -/
@[simp] theorem resetOf_lookup (v : Variant) (p i : Byte) : (State.resetOf v p).lookup i = 0#8 :=
  read_empty i

/-- No instruction has a step from a fresh instance, which is in `Setup` (rule R35). -/
theorem exec_resetOf_ne_next (v : Variant) (p : Byte) (i : Instr) (t : State) :
    exec i (State.resetOf v p) ≠ .next t := by
  have hp : (State.resetOf v p).phase ≠ .running := by simp
  rw [exec_notRunning i hp]
  exact nofun

/-- Settles O41: the fields are those of `State.resetOf`, its empty table reads 0 at every index, and its
phase `Setup` admits no `feed`. -/
theorem freshInstanceIsIdleAndUnmapped : Obligations.FreshInstanceIsIdleAndUnmapped := fun v p =>
  ⟨resetOf_brk v p, resetOf_ext v p, resetOf_pst v p, resetOf_lookup v p, resetOf_phase v p,
    resetOf_out v p, exec_resetOf_ne_next v p⟩

end Sys2Proof.Machine

namespace Sys2Proof.Machine

/-! ### Byte classes of the multi-byte variant -/

/-- The sentinels are the four values of rule R19. -/
theorem isSentinel_iff (b : Byte) :
    isSentinel b = true ↔ b = 0xFF#8 ∨ b = 0xF0#8 ∨ b = 0xE0#8 ∨ b = 0xE1#8 := by
  simp [isSentinel, sentOvr, sentBrk, sentExt, sentPau, or_assoc]

/-- A byte that is no sentinel falls through the ordered tests of rule R100 to class `DATA`. -/
theorem decodeByte_data {d : Byte} (hd : isSentinel d = false) :
    decodeByte .multiByte d = .mbData d := by
  simp only [isSentinel, Bool.or_eq_false_iff, beq_eq_false_iff_ne] at hd
  obtain ⟨⟨⟨hovr, hbrk⟩, hext⟩, hpau⟩ := hd
  simp [decodeByte, decodeMb, hovr, hbrk, hext, hpau]

/-! ### `feed` and `exec` of each byte class -/

/-- Where `feed` is admitted, in the variant of its format, an instruction completes. -/
theorem exec_admitted {s : State} (i : Instr) (hp : s.phase = .running) (hv : s.variant = i.variant) :
    exec i s = .next (feedInstr i s).state := by
  rw [exec_eq_admitFeed, admitFeed_admitted _ hp hv]

/-- In the multi-byte variant a byte is fed as the instruction that variant decodes it to. -/
theorem feed_multiByte {s : State} (b : Byte) (hv : s.variant = .multiByte) :
    feed b s = feedInstr (decodeByte .multiByte b) s := by
  rw [feed, hv]

/-- `0xFF` is fed as `OVR`. -/
theorem feed_ovr {s : State} (hv : s.variant = .multiByte) : feed 0xFF#8 s = ⟨none, s⟩ :=
  feed_multiByte 0xFF#8 hv

/-- `0xF0` is fed as `BRK`. -/
theorem feed_brk {s : State} (hv : s.variant = .multiByte) : feed 0xF0#8 s = ⟨none, s.setBrk⟩ :=
  feed_multiByte 0xF0#8 hv

/-- `0xE0` is fed as `EXT`. -/
theorem feed_ext {s : State} (hv : s.variant = .multiByte) : feed 0xE0#8 s = ⟨none, s.setExt⟩ :=
  feed_multiByte 0xE0#8 hv

/-- `0xE1` is fed as `PAU`. -/
theorem feed_pau {s : State} (hv : s.variant = .multiByte) : feed 0xE1#8 s = ⟨none, s.startPause⟩ :=
  feed_multiByte 0xE1#8 hv

/-- A data byte is fed as `DATA`. -/
theorem feed_data {s : State} {d : Byte} (hv : s.variant = .multiByte) (hd : isSentinel d = false) :
    feed d s = feedData d s := by
  rw [feed_multiByte d hv, decodeByte_data hd, feedInstr]

/-- `MB.DATA` at `pst` 2 (rule R106). -/
theorem exec_mbData_absorbed {s : State} (d : Byte) (hp : s.phase = .running)
    (hv : s.variant = .multiByte) (h2 : s.pst = .two) :
    exec (.mbData d) s = .next s.absorbPause := by
  rw [exec_admitted (.mbData d) hp hv, feedInstr, feedData_absorbed d h2]

/-- `MB.DATA` at `pst` 0 and 1: the three fields are cleared and the event is framed (rules R107 to R111). -/
theorem exec_mbData_resolved {s : State} (d : Byte) (hp : s.phase = .running)
    (hv : s.variant = .multiByte) (h2 : s.pst ≠ .two) :
    exec (.mbData d) s = .next { s with
      brk := false, ext := false, pst := .zero, out := s.out ++ frame (dataEvent s d) } := by
  rw [exec_admitted (.mbData d) hp hv, feedInstr, feedData_resolved d h2]

/-- At `pst` 2 a data byte yields no event (rule R106). -/
theorem feed_data_absorbed {s : State} {d : Byte} (hv : s.variant = .multiByte)
    (hd : isSentinel d = false) (h2 : s.pst = .two) : feed d s = ⟨none, s.absorbPause⟩ := by
  rw [feed_data hv hd, feedData_absorbed d h2]

/-- At `pst` 0 and 1 a data byte yields its event (rule R111). -/
theorem feed_data_event {s : State} {d : Byte} (hv : s.variant = .multiByte)
    (hd : isSentinel d = false) (h2 : s.pst ≠ .two) : (feed d s).event = some (dataEvent s d) := by
  rw [feed_data hv hd, feedData_resolved d h2]

/-! ### Byte sequences -/

/-- No byte changes `VARIANT`. -/
@[simp] theorem feed_variant (b : Byte) (s : State) : (feed b s).state.variant = s.variant := by
  rw [feed, feedInstr_frame]

/-- No byte sequence changes `VARIANT`. -/
@[simp] theorem feedAll_variant (bs : List Byte) (s : State) :
    (feedAll bs s).variant = s.variant := by
  induction bs generalizing s with
  | nil => rfl
  | cons b bs ih => rw [feedAll, ih, feed_variant]

/-- Feeding two sequences one after the other. -/
theorem feedAll_append (bs cs : List Byte) (s : State) :
    feedAll (bs ++ cs) s = feedAll cs (feedAll bs s) := by
  induction bs generalizing s with
  | nil => rfl
  | cons b bs ih => exact ih _

/-- The events of two sequences one after the other. -/
theorem eventsOf_append (bs cs : List Byte) (s : State) :
    eventsOf (bs ++ cs) s = eventsOf bs s ++ eventsOf cs (feedAll bs s) := by
  induction bs generalizing s with
  | nil => rfl
  | cons b bs ih => rw [List.cons_append, eventsOf, eventsOf, feedAll, ih, List.append_assoc]

/-- A byte that yields no event leaves the events of the rest, from the state it gives. -/
theorem eventsOf_cons_silent {b : Byte} {s t : State} (bs : List Byte) (h : feed b s = ⟨none, t⟩) :
    eventsOf (b :: bs) s = eventsOf bs t := by
  simp [eventsOf, h]

/-- `0xFF` at the head of a sequence is invisible (rule R101). -/
theorem ovr_cons_invisible {s : State} (cs : List Byte) (hv : s.variant = .multiByte) :
    feedAll (0xFF#8 :: cs) s = feedAll cs s ∧ eventsOf (0xFF#8 :: cs) s = eventsOf cs s :=
  ⟨by rw [feedAll, feed_ovr hv], eventsOf_cons_silent cs (feed_ovr hv)⟩

/-! ### The pause sequence -/

/-- At `pst` 1 the working byte is `PAUSE_ID` (rule R107). -/
theorem substPause_one {s : State} (d : Byte) (h1 : s.pst = .one) : substPause s d = s.pauseId := by
  rw [substPause, if_pos h1]

/-- The event a pause sequence ends in: the entry of `PAUSE_ID`, marked if `ext` is pending (rules R107 to
R110). -/
def pauseEvent (s : State) : KeyEvent := ⟨s.lookup (markExtended s s.pauseId), s.pressed⟩

/-- At `pst` 1 the event of a data byte is that of the pause key, whatever the byte (rule R107). -/
theorem dataEvent_pause {s : State} (d : Byte) (h1 : s.pst = .one) : dataEvent s d = pauseEvent s := by
  rw [dataEvent, mbIndex, substPause_one d h1, pauseEvent]

/-- At `pst` 1 one more data byte ends the pause sequence. -/
theorem eventsOf_pause_one {s : State} {d : Byte} (hv : s.variant = .multiByte)
    (hd : isSentinel d = false) (h1 : s.pst = .one) : eventsOf [d] s = [pauseEvent s] := by
  have h2 : s.pst ≠ .two := by simp [h1]
  simp [eventsOf, feed_data_event hv hd h2, dataEvent_pause d h1]

/-- At `pst` 2 two more data bytes end the pause sequence. -/
theorem eventsOf_pause_two {s : State} {d1 d2 : Byte} (hv : s.variant = .multiByte)
    (hd1 : isSentinel d1 = false) (hd2 : isSentinel d2 = false) (h2 : s.pst = .two) :
    eventsOf [d1, d2] s = [pauseEvent s] :=
  calc eventsOf [d1, d2] s
      _ = eventsOf [d2] s.absorbPause := eventsOf_cons_silent [d2] (feed_data_absorbed hv hd1 h2)
      _ = [pauseEvent s] := eventsOf_pause_one (s := s.absorbPause) hv hd2 rfl

/-- A silent byte inside a pause sequence: the data bytes still due end it in the pause event of the state
that byte gives (rules R102 to R104). -/
theorem eventsOf_silent_pause {b d1 d2 : Byte} {s t : State} (hfeed : feed b s = ⟨none, t⟩)
    (hv : t.variant = .multiByte) (hd1 : isSentinel d1 = false) (hd2 : isSentinel d2 = false) :
    (t.pst = .one → eventsOf [b, d1] s = [pauseEvent t]) ∧
    (t.pst = .two → eventsOf [b, d1, d2] s = [pauseEvent t]) := by
  rw [eventsOf_cons_silent [d1] hfeed, eventsOf_cons_silent [d1, d2] hfeed]
  exact ⟨eventsOf_pause_one hv hd1, eventsOf_pause_two hv hd1 hd2⟩

/-- With `brk` pending the pause event is a release (rule R102). -/
theorem pauseEvent_setBrk (s : State) :
    pauseEvent s.setBrk = ⟨s.lookup (if s.ext then s.pauseId ||| 0x80#8 else s.pauseId), false⟩ := rfl

/-- With `ext` pending the pause event is that of `PAUSE_ID` with bit 7 set (rules R103, R108). -/
theorem pauseEvent_setExt (s : State) :
    pauseEvent s.setExt = ⟨s.lookup (s.pauseId ||| 0x80#8), !s.brk⟩ := rfl

/-! ### Lead-ins that are already pending -/

theorem setBrk_of_brk {s : State} (h : s.brk = true) : s.setBrk = s := by
  rw [State.setBrk, ← h]

theorem setExt_of_ext {s : State} (h : s.ext = true) : s.setExt = s := by
  rw [State.setExt, ← h]

theorem startPause_of_two {s : State} (h : s.pst = .two) : s.startPause = s := by
  rw [State.startPause, ← h]

/-! ### The sentinels -/

/-- Settles O10: `0xFF` gives back the state it is fed in, so the sequence after it goes on from there. -/
theorem overrunMarkerIsDiscarded : Obligations.OverrunMarkerIsDiscarded := by
  refine ⟨rfl, rfl, fun s hp hv => ⟨exec_admitted .mbOvr hp hv, by rw [feed_ovr hv], fun bs cs => ?_⟩⟩
  have hbs : (feedAll bs s).variant = .multiByte := by rw [feedAll_variant, hv]
  obtain ⟨hstate, hevents⟩ := ovr_cons_invisible cs hbs
  constructor
  · rw [feedAll_append, feedAll_append, hstate]
  · rw [eventsOf_append, eventsOf_append, hevents]

/-- Settles O11: `0xF0` is silent and gives `setBrk`, which keeps `pst`; the pause event from there is a
release. -/
theorem breakLeadInSetsPendingBreak : Obligations.BreakLeadInSetsPendingBreak := by
  refine ⟨rfl, rfl, fun s hp hv => ?_⟩
  have hexec : exec .mbBrk s = .next s.setBrk := exec_admitted .mbBrk hp hv
  refine ⟨hexec, by rw [feed_brk hv], fun hb => by rw [hexec, setBrk_of_brk hb],
    fun d1 d2 hd1 hd2 => ?_⟩
  rw [← pauseEvent_setBrk]
  exact eventsOf_silent_pause (feed_brk hv) hv hd1 hd2

/-- Settles O12: `0xE0` is silent and gives `setExt`, which keeps `pst`; the pause event from there is that
of the marked `PAUSE_ID`. -/
theorem extendedLeadInSetsPendingExtended : Obligations.ExtendedLeadInSetsPendingExtended := by
  refine ⟨rfl, rfl, fun s hp hv => ?_⟩
  have hexec : exec .mbExt s = .next s.setExt := exec_admitted .mbExt hp hv
  refine ⟨hexec, by rw [feed_ext hv], fun he => by rw [hexec, setExt_of_ext he],
    fun d1 d2 hd1 hd2 => ?_⟩
  rw [← pauseEvent_setExt]
  exact eventsOf_silent_pause (feed_ext hv) hv hd1 hd2

/-- Settles O13: `0xE1` is silent and gives `pst` 2 from every state; there one data byte is absorbed and
the second ends the sequence in one event. -/
theorem pauseLeadInStartsTheSequence : Obligations.PauseLeadInStartsTheSequence := by
  refine ⟨rfl, rfl, fun s hp hv => ?_⟩
  have hexec : exec .mbPau s = .next s.startPause := exec_admitted .mbPau hp hv
  have hfeed := feed_pau hv
  refine ⟨hexec, by rw [hfeed], fun h2 => by rw [hexec, startPause_of_two h2],
    fun d1 d2 hd1 hd2 => ⟨?_, ?_⟩⟩
  · have habsorbed := feed_data_absorbed (s := s.startPause) hv hd1 rfl
    rw [eventsOf_cons_silent _ hfeed, eventsOf_cons_silent _ habsorbed, eventsOf]
  · rw [(eventsOf_silent_pause hfeed hv hd1 hd2).2 rfl, List.length_singleton]

/-! ### The data byte -/

/-- Settles O14: by the two branches of `feedData`; the written-out index is `mbIndex`. -/
theorem dataByteIsAbsorbedOrResolved : Obligations.DataByteIsAbsorbedOrResolved := by
  intro s d hp hv hd
  refine ⟨rfl, decodeByte_data hd, fun h2 => ?_, fun h2 k1 k hk1 hk => ?_⟩
  · exact ⟨exec_mbData_absorbed d hp hv h2, by rw [feed_data_absorbed hv hd h2]⟩
  · have hindex : mbIndex s d = k := by rw [hk, hk1]; rfl
    have hevent : dataEvent s d = ⟨s.lookup k, !s.brk⟩ := by rw [dataEvent, hindex, State.pressed]
    rw [exec_mbData_resolved d hp hv h2, feed_data_event hv hd h2, hevent]
    exact ⟨rfl, rfl⟩

/-- At `pst` 2 no sentinel moves the pause stage (rules R101 to R104). -/
theorem feed_sentinel_keeps_pst_two {s : State} {b : Byte} (hv : s.variant = .multiByte)
    (h2 : s.pst = .two) (hb : isSentinel b = true) : (feed b s).state.pst = .two := by
  obtain rfl | rfl | rfl | rfl := (isSentinel_iff b).1 hb
  · rw [feed_ovr hv]; exact h2
  · rw [feed_brk hv]; exact h2
  · rw [feed_ext hv]; exact h2
  · rw [feed_pau hv]; rfl

/-- Settles O15: a data byte takes the absorbing branch of `feedData`, a sentinel never reaches it. -/
theorem secondPauseByteIsAbsorbed : Obligations.SecondPauseByteIsAbsorbed := fun _ hp hv h2 =>
  ⟨fun d hd => ⟨exec_mbData_absorbed d hp hv h2, by rw [feed_data_absorbed hv hd h2]⟩,
    fun _ hb => feed_sentinel_keeps_pst_two hv h2 hb⟩

/-- At `pst` 0 the working byte is the byte itself (rule R107). -/
theorem substPause_zero {s : State} (d : Byte) (h0 : s.pst = .zero) : substPause s d = d := by
  simp [substPause, h0]

/-- Settles O16: the next state depends on the byte through its event alone, which at `pst` 1 is
`pauseEvent`. -/
theorem thirdPauseByteIsReplacedByPauseId : Obligations.ThirdPauseByteIsReplacedByPauseId := by
  intro s d hp hv _
  refine ⟨fun h1 => ?_, fun h0 => ?_⟩
  · have h2 : s.pst ≠ .two := by simp [h1]
    refine ⟨substPause_one d h1, ⟨_, exec_mbData_resolved d hp hv h2, rfl⟩, fun d' _ => ?_⟩
    rw [exec_mbData_resolved d' hp hv h2, exec_mbData_resolved d hp hv h2, dataEvent_pause d' h1,
      dataEvent_pause d h1]
  · have h2 : s.pst ≠ .two := by simp [h0]
    exact ⟨substPause_zero d h0, _, exec_mbData_resolved d hp hv h2, rfl⟩

/-- Marking with `EXT_BIT` sets bit 7 and keeps every other bit (rule R108). -/
theorem getLsbD_or_extBit (k : Byte) (n : Nat) :
    (k ||| extBit).getLsbD n = (k.getLsbD n || decide (n = 7)) := by
  have hbit : extBit = BitVec.twoPow 8 7 := by decide
  simp [hbit, BitVec.getLsbD_twoPow, eq_comm]

/-- A byte whose bit 7 is set is its own marking (rule R108). -/
theorem or_extBit_of_getLsbD {k : Byte} (h : k.getLsbD 7 = true) : k ||| extBit = k := by
  refine BitVec.eq_of_getLsbD_eq fun n _ => ?_
  rw [getLsbD_or_extBit]
  by_cases hn : n = 7
  · simp [hn, h]
  · simp [hn]

/-- With `ext` pending the index is the marked working byte (rule R108). -/
theorem mbIndex_of_ext {s : State} (d : Byte) (he : s.ext = true) :
    mbIndex s d = substPause s d ||| extBit := by
  rw [mbIndex, markExtended, if_pos he]

/-- Settles O17: the index is the working byte with `EXT_BIT` set, read bit by bit. -/
theorem extendedMarkingSetsBitSevenOnly : Obligations.ExtendedMarkingSetsBitSevenOnly := by
  intro s d hp hv _ he h2
  rw [mbIndex_of_ext d he]
  refine ⟨?_, fun n hn => ?_, or_extBit_of_getLsbD, fun h1 => ?_,
    _, exec_mbData_resolved d hp hv h2, rfl⟩
  · rw [getLsbD_or_extBit, decide_eq_true rfl, Bool.or_true]
  · have hne : n ≠ 7 := by omega
    rw [getLsbD_or_extBit, decide_eq_false hne, Bool.or_false]
  · rw [substPause_one d h1, extBit]

/-- Settles O18: the event of a resolved byte is pressed exactly when `brk` is 0. -/
theorem releaseExactlyWhenBreakIsPending : Obligations.ReleaseExactlyWhenBreakIsPending := by
  intro s d hp hv hd h2
  refine ⟨_, dataEvent s d, exec_mbData_resolved d hp hv h2, feed_data_event hv hd h2, ?_, rfl⟩
  simp [dataEvent, State.pressed]

end Sys2Proof.Machine

namespace Sys2Proof.Machine

/-! ### The two fields of a byte of the single-byte variant -/

/-- Masking with `0x7F` keeps bits 6 to 0 (rule R132). -/
theorem toNat_and_0x7F (b : Byte) : (b &&& 0x7F#8).toNat = b.toNat % 128 := by
  rw [BitVec.toNat_and]
  exact Nat.and_two_pow_sub_one_eq_mod b.toNat 7

/-- The index of a byte's identifier is the byte without bit 7 (rules R81, R131). -/
theorem sbIndex_extractLsb' (b : Byte) : sbIndex (b.extractLsb' 0 7) = b &&& 0x7F#8 := by
  apply BitVec.eq_of_toNat_eq
  rw [toNat_and_0x7F, sbIndex, BitVec.toNat_setWidth, BitVec.extractLsb'_toNat, Nat.shiftRight_zero]
  omega

/-- The identifier of a written-out byte is its low part, whatever the release bit (rule R74). -/
theorem extractLsb'_releaseBit_append (c : BitVec 1) (i : BitVec 7) :
    (c ++ i).extractLsb' 0 7 = i :=
  BitVec.extractLsb'_append_eq_right

/-- A make and its break use the same index (rule R132). -/
theorem releaseBit_append_and_0x7F (c : BitVec 1) (i : BitVec 7) :
    (c ++ i) &&& 0x7F#8 = i.setWidth 8 := by
  rw [← sbIndex_extractLsb', extractLsb'_releaseBit_append, sbIndex]

/-- The test of rule R133 is the release bit of rule R130, negated. -/
theorem and_0x80_beq_zero (b : Byte) : (b &&& 0x80#8 == 0#8) = !b.getLsbD 7 := by
  have hbit : 0x80#8 = BitVec.twoPow 8 7 := by decide
  rw [hbit, BitVec.and_twoPow]
  cases b.getLsbD 7 <;> decide

/-- Bit 7 of a written-out byte is its release bit (rule R74). -/
theorem getLsbD_releaseBit_append (c : BitVec 1) (i : BitVec 7) :
    (c ++ i).getLsbD 7 = c.getLsbD 0 := by
  rw [BitVec.getLsbD_append]
  rfl

/-- Decoding dispatches on bit 7 (rule R130). -/
theorem decodeByte_singleByte (b : Byte) :
    decodeByte .singleByte b =
      if b.getLsbD 7 then .sbBreak (b.extractLsb' 0 7) else .sbMake (b.extractLsb' 0 7) := rfl

/-- A written-out byte decodes by its release bit (rules R74, R130). -/
theorem decodeByte_releaseBit_append (c : BitVec 1) (i : BitVec 7) :
    decodeByte .singleByte (c ++ i) = if c.getLsbD 0 then .sbBreak i else .sbMake i := by
  rw [decodeByte_singleByte, extractLsb'_releaseBit_append, getLsbD_releaseBit_append]

/-- Every byte decodes to an instruction of the format that `VARIANT` selects (rule R87). -/
theorem decodeByte_singleByte_variant (b : Byte) :
    (decodeByte .singleByte b).variant = .singleByte := by
  rw [decodeByte_singleByte]
  cases b.getLsbD 7 <;> rfl

/-! ### `feed` and `exec` of a byte of the single-byte variant -/

/-- The event of rule R133 for a byte. -/
def byteEvent (s : State) (b : Byte) : KeyEvent :=
  ⟨s.lookup (b &&& 0x7F#8), b &&& 0x80#8 == 0#8⟩

/-- A make and a break are one step, told apart by the release bit alone (rules R131, R132). -/
theorem feedInstr_decodeSb (b : Byte) (s : State) :
    feedInstr (decodeByte .singleByte b) s = feedKey (b.extractLsb' 0 7) (!b.getLsbD 7) s := by
  rw [decodeByte_singleByte]
  cases b.getLsbD 7 <;> rfl

/-- The instruction of a byte yields the byte's event and emits it (rule R130). -/
theorem feedInstr_singleByte (b : Byte) (s : State) :
    feedInstr (decodeByte .singleByte b) s = ⟨some (byteEvent s b), s.emit (byteEvent s b)⟩ := by
  rw [feedInstr_decodeSb, feedKey, sbIndex_extractLsb', ← and_0x80_beq_zero, byteEvent]

/-- In the single-byte variant every byte yields its event (rule R133). -/
theorem feed_singleByte {s : State} (b : Byte) (hv : s.variant = .singleByte) :
    (feed b s).event = some (byteEvent s b) := by
  rw [feed, hv, feedInstr_singleByte]

/-- In the single-byte variant every byte completes by emitting its event (rules R130, R133). -/
theorem exec_singleByte {s : State} (b : Byte) (hp : s.phase = .running)
    (hv : s.variant = .singleByte) :
    exec (decodeByte .singleByte b) s = .next (s.emit (byteEvent s b)) := by
  rw [exec_admitted _ hp (hv.trans (decodeByte_singleByte_variant b).symm), feedInstr_singleByte]

/-- The event of a byte depends on the entries 0 to 127 only (rule R133). -/
theorem byteEvent_congr_table {s : State} {m : Memory} (b : Byte)
    (hm : ∀ k : Byte, k.toNat < 128 → m.read k = s.table.read k) :
    byteEvent { s with table := m } b = byteEvent s b := by
  have hlow : (b &&& 0x7F#8).toNat < 128 := by
    rw [toNat_and_0x7F]
    exact Nat.mod_lt _ (by decide)
  simp only [byteEvent, State.lookup, hm _ hlow]

/-! ### The law of the variant and its two instructions -/

/-- Settles O26: every byte yields and emits its event, whose index is below 128. -/
theorem singleByteLaw : Obligations.SingleByteLaw := by
  intro s b hp hv
  refine ⟨feed_singleByte b hv, exec_singleByte b hp hv, fun m hm => ?_⟩
  have hvm : ({ s with table := m } : State).variant = .singleByte := hv
  rw [feed_singleByte b hvm, feed_singleByte b hv, byteEvent_congr_table b hm]

/-- The event of a written-out byte: the entry of its identifier, a press unless the release bit is
set (rules R131, R132). -/
theorem byteEvent_releaseBit_append (s : State) (c : BitVec 1) (i : BitVec 7) :
    byteEvent s (c ++ i) = ⟨s.lookup (i.setWidth 8), !c.getLsbD 0⟩ := by
  rw [byteEvent, releaseBit_append_and_0x7F, and_0x80_beq_zero, getLsbD_releaseBit_append]

/-- What a make and a break have in common, in words of the release bit: the transition, the entry
read and the event (rules R131, R132). -/
theorem exec_releaseBit_append {s : State} {k : Instr} (c : BitVec 1) (i : BitVec 7)
    (hdec : decodeByte .singleByte (c ++ i) = k) (hp : s.phase = .running)
    (hv : s.variant = .singleByte) :
    exec k s = .next { s with
      out := s.out ++ [.reportKey (s.lookup ((c ++ i) &&& 0x7F#8)) (!c.getLsbD 0), .sync] } ∧
    s.lookup ((c ++ i) &&& 0x7F#8) = s.lookup (i.setWidth 8) ∧
    (feed (c ++ i) s).event = some ⟨s.lookup (i.setWidth 8), !c.getLsbD 0⟩ := by
  have hevent := byteEvent_releaseBit_append s c i
  rw [releaseBit_append_and_0x7F]
  refine ⟨?_, rfl, ?_⟩
  · rw [← hdec, exec_singleByte (c ++ i) hp hv, hevent, State.emit, frame]
  · rw [feed_singleByte (c ++ i) hv, hevent]

/-- Settles O24: the written-out byte with release bit 0. -/
theorem makePressesTheIdentifier : Obligations.MakePressesTheIdentifier := fun _ i hp hv =>
  have hdec : decodeByte .singleByte (0#1 ++ i) = .sbMake i := decodeByte_releaseBit_append 0#1 i
  ⟨rfl, hdec, exec_releaseBit_append 0#1 i hdec hp hv⟩

/-- Settles O25: the written-out byte with release bit 1. -/
theorem breakReleasesTheIdentifier : Obligations.BreakReleasesTheIdentifier := fun _ i hp hv =>
  have hdec : decodeByte .singleByte (1#1 ++ i) = .sbBreak i := decodeByte_releaseBit_append 1#1 i
  ⟨rfl, hdec, exec_releaseBit_append 1#1 i hdec hp hv⟩

end Sys2Proof.Machine

namespace Sys2Proof.Machine

/-! ### The host's operations in `Setup` -/

/-- Of two writes of the host's next operations the second stands. -/
@[simp] theorem setOps_setOps (s : State) (l m : List HostOp) :
    (s.setOps l).setOps m = s.setOps m := rfl

/-- The table and the host's next operations are written independently. -/
theorem setOps_setTable (s : State) (l : List HostOp) (e : Vector Byte 256) :
    (s.setOps l).setTable e = (s.setTable e).setOps l := rfl

/-- Outside `Running` and outside the handler, the step is the host's next operation: no byte arrives and
no moment of the link is used up. -/
theorem step_hostOp {s : State} (op : HostOp) (rest : List HostOp) (hp : s.phase ≠ .running)
    (hs : s.inService = false) : step (s.setOps (op :: rest)) = execHost op (s.setOps rest) := by
  have hp' : (s.setOps (op :: rest)).phase ≠ .running := hp
  obtain ⟨harriving, hgap⟩ := moment_kept hp'
  have haction : action (s.setOps (op :: rest)) = .other (execHost op (s.setOps rest)) := by
    simp [action, hs]
  rw [step_action harriving, hgap, haction]

/-- `configure` in `Setup` replaces the whole table (rule R140). -/
theorem execHost_configure_setup {s : State} (e : Vector Byte 256) (hp : s.phase = .setup) :
    execHost (.configure e) s = .next (s.setTable e) :=
  if_pos hp

/-- `enable` in `Setup` starts reception (rule R161). -/
theorem execHost_enable_setup {s : State} (hp : s.phase = .setup) :
    execHost .enable s = .next (s.setPhase .running) :=
  if_pos hp

/-- From `Setup`, a run of `configure` operations and then `enable` performs the table writes in order and
starts reception (rule R144). -/
theorem run_configures_enable (es : List (Vector Byte 256)) {s : State} (hp : s.phase = .setup)
    (hs : s.inService = false) :
    Host.Core.run core (es.length + 1) (s.setOps (es.map HostOp.configure ++ [HostOp.enable])) =
      .next (((es.foldl State.setTable s).setOps []).setPhase .running) := by
  induction es generalizing s with
  | nil =>
    have hstep : step (s.setOps [.enable]) = .next ((s.setOps []).setPhase .running) := by
      rw [step_hostOp .enable [] (by simp [hp]) hs, execHost_enable_setup (s := s.setOps []) hp]
    exact run_next 0 hstep
  | cons e es ih =>
    have hstep (rest : List HostOp) :
        step (s.setOps (.configure e :: rest)) = .next ((s.setTable e).setOps rest) := by
      rw [step_hostOp (.configure e) rest (by simp [hp]) hs,
        execHost_configure_setup (s := s.setOps rest) e hp, setOps_setTable]
    exact (run_next (es.length + 1) (hstep _)).trans (ih (s := s.setTable e) hp hs)

/-- After a list of table writes every index reads the entry of the last array. -/
theorem foldl_setTable_lookup {es : List (Vector Byte 256)} {e : Vector Byte 256} (s : State)
    (he : es.getLast? = some e) (i : Byte) :
    (es.foldl State.setTable s).lookup i = e[i.toNat]'i.isLt := by
  obtain ⟨earlier, rfl⟩ := List.getLast?_eq_some_iff.1 he
  rw [List.foldl_concat, State.lookup, setTable_table, read_ofEntries]

/-- Settles O34: the run ends in the table writes folded over the state, of which the last decides every
entry; writing the same array twice is writing it once. -/
theorem lastConfigureBeforeEnableIsSeen : Obligations.LastConfigureBeforeEnableIsSeen := by
  refine ⟨fun es s hp hs => ?_, fun e s t hp ht => ?_⟩
  · refine ⟨_, run_configures_enable es hp hs, rfl, rfl, fun e he => foldl_setTable_lookup s he, ?_, ?_⟩
    · rintro rfl
      rfl
    · rintro rfl htable i
      have hlookup : s.lookup i = (State.resetOf s.variant s.pauseId).lookup i :=
        congrArg (Memory.read · i) htable
      exact hlookup.trans (resetOf_lookup s.variant s.pauseId i)
  · rw [execHost_configure_setup e hp] at ht
    obtain rfl : s.setTable e = t := Host.Outcome.next.inj ht
    exact execHost_configure_setup (s := s.setTable e) e hp

end Sys2Proof.Machine

namespace Sys2Proof.Machine

/-! ### `feed` of any byte, in both variants -/

/-- Every byte decodes to an instruction of the format that `VARIANT` selects (rules R70, R87). -/
@[simp] theorem decodeByte_variant (v : Variant) (b : Byte) : (decodeByte v b).variant = v := by
  cases v with
  | singleByte => exact decodeByte_singleByte_variant b
  | multiByte =>
    cases hb : isSentinel b with
    | false => rw [decodeByte_data hb]; rfl
    | true => obtain rfl | rfl | rfl | rfl := (isSentinel_iff b).1 hb <;> rfl

/-- In `Running` the instruction of every byte completes, and its next state is that of `feed` (rules R70,
R100, R130). -/
theorem exec_decodeByte {s : State} (b : Byte) (hp : s.phase = .running) :
    exec (decodeByte s.variant b) s = .next (feed b s).state := by
  rw [exec_admitted _ hp (decodeByte_variant s.variant b).symm, feed]

/-- An instruction appends the frame of its event to `OUT`, and nothing if it has none (rules R151, R154). -/
theorem feedInstr_out (i : Instr) (s : State) :
    (feedInstr i s).state.out = s.out ++ framesOf (feedInstr i s).event.toList := by
  cases i with
  | mbData d =>
    by_cases h2 : s.pst = .two
    · simp [feedInstr, feedData_absorbed d h2, framesOf]
    · simp [feedInstr, feedData_resolved d h2, framesOf]
  | sbMake | sbBreak => simp [feedInstr, feedMake, feedBreak, feedKey, State.emit, framesOf]
  | mbOvr | mbBrk | mbExt | mbPau => exact (List.append_nil s.out).symm

/-- A byte whose event is `e` appends the frame of `e` to `OUT`, whatever the event's code (rules R151,
R152). -/
theorem feed_out_of_event {s : State} {b : Byte} {e : KeyEvent} (he : (feed b s).event = some e) :
    (feed b s).state.out = s.out ++ frame e := by
  rw [feed] at he
  rw [feed, feedInstr_out, he, framesOf, Option.toList_some, List.flatMap_singleton]

/-! ### The event with code 0 -/

/-- Settles O30: the instruction of every byte completes in the state of its `feed`, which appends the
frame of the event without a test of its code. -/
theorem unmappedKeyIsForwarded : Obligations.UnmappedKeyIsForwarded := fun _ b _ hp he =>
  ⟨_, exec_decodeByte b hp, feed_out_of_event he⟩

end Sys2Proof.Machine

namespace Sys2Proof.Machine

/-! ### A step from `Stopped` -/

/-- Writing the phase that is already there changes nothing. -/
theorem setPhase_of_phase {s : State} {p : Phase} (h : s.phase = p) : s.setPhase p = s := by
  rw [State.setPhase, ← h]

/-- Outside `Running` the Byte Source gives no byte (rule R176). -/
theorem hasData_notRunning {s : State} (hp : s.phase ≠ .running) : s.hasData = false := by
  simp [State.hasData, hp]

/-- What a host operation does in `Stopped` (the last column of rule R160's table). -/
theorem execHost_next_stopped {op : HostOp} {s t : State} (hp : s.phase = .stopped)
    (h : execHost op s = .next t) :
    (op = .reset ∧ t = s.clear) ∨
    (∃ e, op = .configure e ∧ t = s.raise (.configError .stopped)) ∨
    (op = .disable ∧ t = s) := by
  have hset : s.phase ≠ .setup := by simp [hp]
  have hdata : s.hasData = false := hasData_notRunning (by simp [hp])
  obtain hreset | ⟨_, _, hsetup, _⟩ | ⟨e, hop, _, ht⟩ | ⟨_, hsetup, _⟩ | ⟨hop, ht⟩ | ⟨_, hd, _⟩ |
    ⟨_, hne, _⟩ := execHost_next h
  · exact .inl hreset
  · exact absurd hsetup hset
  · exact .inr (.inl ⟨e, hop, by rw [ht, hp]⟩)
  · exact absurd hsetup hset
  · exact .inr (.inr ⟨hop, by rw [ht, setPhase_of_phase hp]⟩)
  · exact absurd hd (by simp [hdata])
  · exact absurd hp hne

/-- A step from `Stopped` either writes nothing but the records, the handler's mark and the host's next
operations, or is `reset` (rules R160, R162). -/
theorem step_stopped {s t : State} (hp : s.phase = .stopped) (h : step s = .next t) :
    t = { s with faults := t.faults, results := t.results, inService := t.inService, ops := t.ops } ∨
    ∃ rest, s.ops = .reset :: rest ∧ t = (s.setOps rest).clear := by
  have hrun : s.phase ≠ .running := by simp [hp]
  obtain ⟨_, _, _, harrives, _⟩ | ⟨_, l, y, hgap, hmove⟩ := step_cases h
  · exact absurd harrives hrun
  have hline : s.setLine l y = s := hgap.symm.trans (moment_kept hrun).2
  rw [hline] at hmove
  obtain ⟨_, hfeeds, _⟩ | ⟨_, _, rfl⟩ | ⟨_, op, rest, hops, hop⟩ | ⟨_, _, hd, _⟩ | ⟨_, _, _, rfl⟩ := hmove
  · exact absurd hfeeds hrun
  · exact .inl rfl
  · obtain ⟨rfl, rfl⟩ | ⟨_, _, rfl⟩ | ⟨_, rfl⟩ := execHost_next_stopped (s := s.setOps rest) hp hop
    · exact .inr ⟨rest, hops, rfl⟩
    · exact .inl rfl
    · exact .inl rfl
  · exact absurd hd (by simp [hasData_notRunning hrun])
  · exact .inl rfl

/-- Settles O38: `disable` writes `phase` alone, and `step_stopped` says what a step does after it. -/
theorem disableStopsUntilReset : Obligations.DisableStopsUntilReset := by
  refine ⟨fun s => ⟨s.setPhase .stopped, rfl, rfl, rfl, rfl, rfl, rfl, rfl⟩, fun s t hp h => ?_⟩
  obtain hkept | ⟨rest, hops, rfl⟩ := step_stopped hp h
  · left
    rw [hkept]
    exact ⟨hp, rfl, rfl, rfl, rfl, rfl⟩
  · right
    exact ⟨by rw [hops, List.head?_cons], rfl, rfl, rfl⟩

/-! ### `enable` -/

/-- Outside `Setup` `enable` has no step (rule R161). -/
theorem execHost_enable_notSetup {s : State} (hp : s.phase ≠ .setup) :
    execHost .enable s = .fault (.enableNotAdmitted s.phase) :=
  if_neg hp

/-- In `Setup` the decoder is `Idle`: nothing between `reset` and `enable` writes its fields (rule R161). -/
theorem Inv.idle_of_setup {s : State} (hinv : Inv s) (hp : s.phase = .setup) : s.idle = true := by
  obtain ⟨hbrk, hext, hpst, _⟩ := hinv.fresh hp
  simp [State.idle, hbrk, hext, hpst]

/-- Settles O37: by the two branches of the admission of `enable`; the invariant gives `Idle`. -/
theorem enableStartsReceptionFromSetup : Obligations.EnableStartsReceptionFromSetup := by
  refine fun s => ⟨fun hp => ⟨execHost_enable_setup hp, fun hinv => hinv.idle_of_setup hp⟩,
    fun hp t => ?_⟩
  rw [execHost_enable_notSetup hp]
  exact nofun

end Sys2Proof.Machine

namespace Sys2Proof.Machine

/-! ### `service` with nothing to read -/

/-- With no byte waiting, `has_data()` is false in every phase (rule R178). -/
theorem hasData_of_rx_nil {s : State} (hrx : s.rx = []) : s.hasData = false := by
  simp [State.hasData, hrx]

/-- Outside `Stopped`, `service` with nothing to read never enters its drain loop (rules R174, R178). -/
theorem execHost_service_notHandled {s : State} (hp : s.phase ≠ .stopped) (hd : s.hasData = false) :
    execHost .service s = .next s.notHandled := by
  simp [execHost, opService, hp, hd]

/-- Settles O42: with no byte waiting `has_data()` is false, and `notHandled` writes the record alone. -/
theorem serviceWithNothingPendingIsNotHandled :
    Obligations.ServiceWithNothingPendingIsNotHandled := by
  intro s hp hrx
  have hne : s.phase ≠ .stopped := by simp [hp]
  exact execHost_service_notHandled hne (hasData_of_rx_nil hrx)

end Sys2Proof.Machine

namespace Sys2Proof.Machine

/-! ### `reset` -/

/-- `reset` is admitted in every phase: it has no guard (rules R160, R200). -/
theorem execHost_reset (s : State) : execHost .reset s = .next s.clear := rfl

/-- Every index of a cleared block is unmapped (rules R34, R200). -/
@[simp] theorem clear_lookup (s : State) (i : Byte) : s.clear.lookup i = 0#8 :=
  read_empty i

/-- Settles O39: the next state is `State.clear`, whose field lemmas give the six reset values. -/
theorem resetRestoresEveryElement : Obligations.ResetRestoresEveryElement := fun s =>
  ⟨s.clear, execHost_reset s, clear_brk s, clear_ext s, clear_pst s, clear_lookup s, clear_phase s,
    clear_out s⟩

end Sys2Proof.Machine

namespace Sys2Proof.Machine

/-! ### Decoding and encoding are inverse (rules R70 to R74) -/

/-- Decoding the byte of a well-formed instruction gives the instruction (rules R71, R74). -/
theorem decodeByte_encodeByte {i : Instr} (hi : i.wellFormed = true) :
    decodeByte i.variant (encodeByte i) = i := by
  cases i with
  | mbOvr | mbBrk | mbExt | mbPau => rfl
  | mbData d =>
    have hd : isSentinel d = false := by simpa [Instr.wellFormed] using hi
    exact decodeByte_data hd
  | sbMake k => exact decodeByte_releaseBit_append 0#1 k
  | sbBreak k => exact decodeByte_releaseBit_append 1#1 k

/-- Settles O1: the byte of the instruction decodes to it, and decoding consumes one byte. -/
theorem decodeOfEncodeGivesBack : Obligations.DecodeOfEncodeGivesBack := fun i rest hi => by
  rw [encode, List.singleton_append, decode, decodeByte_encodeByte hi]

/-- A byte is its release bit followed by its identifier (rule R74). -/
theorem releaseBit_append_extractLsb' (b : Byte) :
    BitVec.ofBool (b.getLsbD 7) ++ b.extractLsb' 0 7 = b := by
  refine BitVec.eq_of_getLsbD_eq fun n hn => ?_
  rw [BitVec.getLsbD_append]
  by_cases h7 : n < 7
  · simp [h7]
  · obtain rfl : n = 7 := by omega
    simp

/-- Encoding what a byte decodes to gives the byte (rule R70). -/
@[simp] theorem encodeByte_decodeByte (v : Variant) (b : Byte) : encodeByte (decodeByte v b) = b := by
  cases v with
  | multiByte =>
    cases hb : isSentinel b with
    | false => rw [decodeByte_data hb, encodeByte]
    | true => obtain rfl | rfl | rfl | rfl := (isSentinel_iff b).1 hb <;> rfl
  | singleByte =>
    have hbyte := releaseBit_append_extractLsb' b
    rw [decodeByte_singleByte]
    cases h7 : b.getLsbD 7 with
    | true => rw [h7] at hbyte; exact hbyte
    | false => rw [h7] at hbyte; exact hbyte

/-- Every byte decodes to a well-formed instruction (rules R70, R105). -/
@[simp] theorem decodeByte_wellFormed (v : Variant) (b : Byte) : (decodeByte v b).wellFormed = true := by
  cases v with
  | multiByte =>
    cases hb : isSentinel b with
    | false => rw [decodeByte_data hb, Instr.wellFormed, hb, Bool.not_false]
    | true => obtain rfl | rfl | rfl | rfl := (isSentinel_iff b).1 hb <;> rfl
  | singleByte =>
    rw [decodeByte_singleByte]
    cases b.getLsbD 7 <;> rfl

/-- Settles O2: `decodeByte` and `encodeByte` are inverse on the well-formed instructions of a variant. -/
theorem everyByteSelectsExactlyOneOperation : Obligations.EveryByteSelectsExactlyOneOperation := by
  refine ⟨fun _ => rfl, fun v b rest => ⟨rfl, ?_, ?_, fun j hj hb => ?_⟩,
    fun s b hp => ⟨_, exec_decodeByte b hp⟩⟩
  · simp [Instr.wellFormedIn]
  · simp [encode]
  · obtain ⟨hv, hwf⟩ : j.variant = v ∧ j.wellFormed = true := by simpa [Instr.wellFormedIn] using hj
    have hbyte : encodeByte j = b := List.singleton_inj.1 hb
    rw [← decodeByte_encodeByte hwf, hv, hbyte]

/-! ### The opcode table (rules R73, R87) -/

/-- Settles O3, by evaluating the twelve rows on each of the 256 bytes. -/
theorem twelvePatternsPartitionTheDataBytes : Obligations.TwelvePatternsPartitionTheDataBytes :=
  ⟨by decide, rfl, by decide +kernel⟩

/-- Settles O4, by evaluating the eighteen rows on each of the 256 bytes of each variant. -/
theorem opcodeRowsAgreeWithTheOrderedTests : Obligations.OpcodeRowsAgreeWithTheOrderedTests := by
  intro v
  cases v with
  | multiByte => decide
  | singleByte => decide

/-- Settles O5, by evaluation. -/
theorem writtenOutWordsDecode : Obligations.WrittenOutWordsDecode := by
  unfold Obligations.WrittenOutWordsDecode
  decide

/-! ### Admission of an instruction (rules R87, R160) -/

/-- Settles O7. -/
theorem admittedInstructionsComplete : Obligations.AdmittedInstructionsComplete := fun i _ hp hv =>
  exec_admitted i hp hv

/-- Settles O8. -/
theorem noInstructionRunsUnlessReceptionIsEnabled :
    Obligations.NoInstructionRunsUnlessReceptionIsEnabled := fun i _ hp => exec_notRunning i hp

/-- Settles O9: of the two guards of `admitFeed` the second fails. -/
theorem otherFormatIsRefused : Obligations.OtherFormatIsRefused := fun i s hp hv => by
  rw [exec_eq_admitFeed, admitFeed, if_pos hp, if_neg hv]

/-- Settles O60: every byte decodes to a well-formed instruction, and `MB.DATA` has its effect for every
operand. -/
theorem illFormedDataActsAsADataByte : Obligations.IllFormedDataActsAsADataByte := by
  intro s d hp hv hd
  have hill : (Instr.mbData d).wellFormed = false := by rw [Instr.wellFormed, hd, Bool.not_true]
  refine ⟨hill, fun v b hb => ?_, exec_mbData_absorbed d hp hv, fun h2 k1 k hk1 hk => ?_⟩
  · have hwf := decodeByte_wellFormed v b
    rw [hb, hill] at hwf
    cases hwf
  · have hindex : mbIndex s d = k := by rw [hk, hk1]; rfl
    rw [exec_mbData_resolved d hp hv h2, dataEvent, hindex]
    rfl

end Sys2Proof.Machine

namespace Sys2Proof.Machine

/-! ### What `feed` leaves unchanged, field by field -/

@[simp] theorem feed_pauseId (b : Byte) (s : State) : (feed b s).state.pauseId = s.pauseId := by
  rw [feed, feedInstr_frame]

@[simp] theorem feed_table (b : Byte) (s : State) : (feed b s).state.table = s.table := by
  rw [feed, feedInstr_frame]

@[simp] theorem feed_phase (b : Byte) (s : State) : (feed b s).state.phase = s.phase := by
  rw [feed, feedInstr_frame]

@[simp] theorem feed_faults (b : Byte) (s : State) : (feed b s).state.faults = s.faults := by
  rw [feed, feedInstr_frame]

@[simp] theorem feed_results (b : Byte) (s : State) : (feed b s).state.results = s.results := by
  rw [feed, feedInstr_frame]

@[simp] theorem feed_inService (b : Byte) (s : State) :
    (feed b s).state.inService = s.inService := by
  rw [feed, feedInstr_frame]

@[simp] theorem feed_rx (b : Byte) (s : State) : (feed b s).state.rx = s.rx := by
  rw [feed, feedInstr_frame]

@[simp] theorem feed_line (b : Byte) (s : State) : (feed b s).state.line = s.line := by
  rw [feed, feedInstr_frame]

@[simp] theorem feed_beyond (b : Byte) (s : State) : (feed b s).state.beyond = s.beyond := by
  rw [feed, feedInstr_frame]

@[simp] theorem feed_ops (b : Byte) (s : State) : (feed b s).state.ops = s.ops := by
  rw [feed, feedInstr_frame]

/-- In the single-byte variant `feed` emits and leaves the decoder's fields (rule R130). -/
theorem feed_state_singleByte {s : State} (b : Byte) (hv : s.variant = .singleByte) :
    (feed b s).state = s.emit (byteEvent s b) := by
  rw [feed, hv, feedInstr_singleByte]

/-- One instruction appends nothing to `OUT`, or one frame (rules R36, R151). -/
theorem feedInstr_out_cases (i : Instr) (s : State) :
    (feedInstr i s).state.out = s.out ∨ ∃ e, (feedInstr i s).state.out = s.out ++ frame e := by
  rw [feedInstr_out]
  cases (feedInstr i s).event with
  | none => exact .inl (List.append_nil s.out)
  | some e => exact .inr ⟨e, by rw [framesOf, Option.toList_some, List.flatMap_singleton]⟩

/-- One `feed` appends nothing to `OUT`, or one frame (rules R36, R151). -/
theorem feed_out_cases (b : Byte) (s : State) :
    (feed b s).state.out = s.out ∨ ∃ e, (feed b s).state.out = s.out ++ frame e :=
  feedInstr_out_cases _ s

/-! ### The moves of the machine, by name -/

/-- The six moves of a step that gives a next state, with what it took to make them. In each, `l` and `y`
are the moments of the link that are left. -/
inductive Moves (s : State) : State → Prop
  /-- A byte of the link arrives. -/
  | arrival (b : Byte) (l : List Arrival) (y : Beyond) (hp : s.phase = .running)
      (harr : s.arriving = some (b, s.setLine l y)) : Moves s ((s.setLine l y).receive b)
  /-- The drain loop feeds the oldest waiting byte. -/
  | feed (b : Byte) (rest : List Byte) (l : List Arrival) (y : Beyond) (harr : s.arriving = none)
      (hs : s.inService = true) (hp : s.phase = .running) (hrx : s.rx = b :: rest) :
      Moves s (feed b ((s.setLine l y).setRx rest)).state
  /-- The drain loop ends. -/
  | leave (l : List Arrival) (y : Beyond) (harr : s.arriving = none) (hs : s.inService = true)
      (hd : s.hasData = false) : Moves s (s.setLine l y).leaveHandler
  /-- The host performs its next operation. -/
  | host (op : HostOp) (rest : List HostOp) (l : List Arrival) (y : Beyond) (t : State)
      (hs : s.inService = false) (hops : s.ops = op :: rest)
      (hop : execHost op ((s.setLine l y).setOps rest) = .next t) : Moves s t
  /-- The interrupt of a waiting byte begins the drain loop. -/
  | interrupt (l : List Arrival) (y : Beyond) (hs : s.inService = false) (hd : s.hasData = true) :
      Moves s (s.setLine l y).enterHandler
  /-- Nothing but a gap of the link passes. -/
  | idle (l : List Arrival) (y : Beyond) (hs : s.inService = false) : Moves s (s.setLine l y)

/-- A step that gives a next state is one of the six moves. -/
theorem moves_of_step {s t : State} (h : step s = .next t) : Moves s t := by
  obtain ⟨b, l, y, hp, harr, rfl⟩ | ⟨harr, l, y, _, hmove⟩ := step_cases h
  · exact .arrival b l y hp harr
  obtain ⟨hs, hp, b, rest, hrx, hexec⟩ | ⟨hs, hd, rfl⟩ | ⟨hs, op, rest, hops, hop⟩ |
    ⟨hs, _, hd, rfl⟩ | ⟨hs, _, _, rfl⟩ := hmove
  · have hfeed := exec_decodeByte (s := (s.setLine l y).setRx rest) b hp
    obtain rfl : _ = t := Host.Outcome.next.inj (hfeed.symm.trans hexec)
    exact .feed b rest l y harr hs hp hrx
  · exact .leave l y harr hs hd
  · exact .host op rest l y t hs hops hop
  · exact .interrupt l y hs hd
  · exact .idle l y hs

/-! ### The invariant (rules R29, R150, R161) -/

/-- A trace of whole frames stays one when a frame is appended (rule R150). -/
theorem framed_append_frame {out : List SinkTx} (e : KeyEvent) (h : framed out = true) :
    framed (out ++ frame e) = true := by
  induction out using framed.induct with
  | case1 => rfl
  | case2 code pressed rest ih => exact ih h
  | case3 out hne hnf =>
    rw [framed] at h
    · cases h
    · exact hne
    · exact hnf

namespace Inv

variable {s : State}

/-- The invariant does not speak of the link's moments. -/
theorem setLine (h : Inv s) (l : List Arrival) (y : Beyond) : Inv (s.setLine l y) :=
  ⟨h.table, h.out, h.handler, h.single, h.fresh⟩

/-- The invariant does not speak of the waiting bytes. -/
theorem receive (h : Inv s) (b : Byte) : Inv (s.receive b) :=
  ⟨h.table, h.out, h.handler, h.single, h.fresh⟩

/-- The invariant does not speak of the waiting bytes. -/
theorem setRx (h : Inv s) (l : List Byte) : Inv (s.setRx l) :=
  ⟨h.table, h.out, h.handler, h.single, h.fresh⟩

/-- The invariant does not speak of the host's next operations. -/
theorem setOps (h : Inv s) (l : List HostOp) : Inv (s.setOps l) :=
  ⟨h.table, h.out, h.handler, h.single, h.fresh⟩

/-- The invariant does not speak of the record of faults. -/
theorem raise (h : Inv s) (c : Condition) : Inv (s.raise c) :=
  ⟨h.table, h.out, h.handler, h.single, h.fresh⟩

/-- The invariant does not speak of the record of results. -/
theorem notHandled (h : Inv s) : Inv s.notHandled :=
  ⟨h.table, h.out, h.handler, h.single, h.fresh⟩

/-- Leaving the drain loop needs no phase. -/
theorem leaveHandler (h : Inv s) : Inv s.leaveHandler :=
  ⟨h.table, h.out, fun hs => Bool.noConfusion hs, h.single, h.fresh⟩

/-- The drain loop begins only where `has_data()` is true, hence in `Running`. -/
theorem enterHandler (h : Inv s) (hd : s.hasData = true) : Inv s.enterHandler :=
  have hp : s.phase = .running := ((hasData_iff s).1 hd).1
  ⟨h.table, h.out, fun _ => hp, h.single, h.fresh⟩

/-- A whole-table write gives a canonical table. -/
theorem setTable (h : Inv s) (e : Vector Byte 256) : Inv (s.setTable e) :=
  ⟨wf_ofEntries e, h.out, h.handler, h.single, h.fresh⟩

/-- With no service running the phase may become any but `Setup`. -/
theorem setPhase (h : Inv s) {p : Phase} (hs : s.inService = false) (hp : p ≠ .setup) :
    Inv (s.setPhase p) :=
  ⟨h.table, h.out, fun hs' => absurd hs' (by simp [hs]), h.single, fun hp' => absurd hp' hp⟩

/-- With no service running the reset values of the block meet the invariant, whatever was before. -/
theorem clear (s : State) (hs : s.inService = false) : Inv s.clear :=
  ⟨wf_empty, rfl, fun hs' => absurd hs' (by simp [hs]), fun _ => ⟨rfl, rfl, rfl⟩,
    fun _ => ⟨rfl, rfl, rfl, rfl⟩⟩

/-- A fed byte sends whole frames and, in the single-byte variant, writes no decoder field. -/
theorem feed (h : Inv s) (b : Byte) (hp : s.phase = .running) : Inv (feed b s).state where
  table := by rw [feed_table]; exact h.table
  out := by
    obtain hout | ⟨e, hout⟩ := feed_out_cases b s
    · rw [hout]; exact h.out
    · rw [hout]; exact framed_append_frame e h.out
  handler := by simp [hp]
  single hv := by
    rw [feed_variant] at hv
    rw [feed_state_singleByte b hv]
    exact h.single hv
  fresh hsetup := by simp [hp] at hsetup

/-- A host operation keeps the invariant where no service runs. -/
theorem execHost {t : State} {op : HostOp} (h : Inv s) (hs : s.inService = false)
    (hop : execHost op s = .next t) : Inv t := by
  obtain ⟨_, rfl⟩ | ⟨e, _, _, rfl⟩ | ⟨_, _, _, rfl⟩ | ⟨_, _, rfl⟩ | ⟨_, rfl⟩ | ⟨_, hd, rfl⟩ |
    ⟨_, _, _, rfl⟩ := execHost_next hop
  · exact clear s hs
  · exact h.setTable e
  · exact h.raise _
  · exact h.setPhase hs nofun
  · exact h.setPhase hs nofun
  · exact h.enterHandler hd
  · exact h.notHandled

end Inv

/-- Settles O52: each of the six moves keeps the invariant. -/
theorem stepKeepsInv : Obligations.StepKeepsInv := by
  intro s t hinv h
  cases moves_of_step h with
  | arrival b l y => exact (hinv.setLine l y).receive b
  | feed b rest l y _ _ hp => exact ((hinv.setLine l y).setRx rest).feed b hp
  | leave l y => exact (hinv.setLine l y).leaveHandler
  | host op rest l y _ hs _ hop => exact ((hinv.setLine l y).setOps rest).execHost hs hop
  | interrupt l y _ hd => exact (hinv.setLine l y).enterHandler hd
  | idle l y => exact hinv.setLine l y

/-- The reset values of either variant meet the invariant (rules R33 to R35). -/
theorem inv_resetOf (v : Variant) (p : Byte) : Inv (State.resetOf v p) :=
  ⟨wf_empty, rfl, fun hs => Bool.noConfusion hs, fun _ => ⟨rfl, rfl, rfl⟩,
    fun _ => ⟨rfl, rfl, rfl, rfl⟩⟩

/-- Settles O53: `State.reset` is `State.resetOf` of the two constants of `Config`. -/
theorem freshInstanceMeetsInv : Obligations.FreshInstanceMeetsInv :=
  ⟨inv_resetOf, inv_resetOf Config.resetVariant Config.pauseId⟩

end Sys2Proof.Machine

namespace Sys2Proof.Machine

/-! ### What a gap of the link leaves unchanged -/

/-- Using up a gap changes the link's moments alone. -/
theorem takeGap_frame (s : State) : s.takeGap = s.setLine s.takeGap.line s.takeGap.beyond := by
  obtain ⟨l, y, hgap⟩ := takeGap_eq s
  rw [hgap]
  rfl

@[simp] theorem takeGap_variant (s : State) : s.takeGap.variant = s.variant := by
  rw [takeGap_frame, setLine_variant]

@[simp] theorem takeGap_phase (s : State) : s.takeGap.phase = s.phase := by
  rw [takeGap_frame, setLine_phase]

@[simp] theorem takeGap_results (s : State) : s.takeGap.results = s.results := by
  rw [takeGap_frame, setLine_results]

@[simp] theorem takeGap_inService (s : State) : s.takeGap.inService = s.inService := by
  rw [takeGap_frame, setLine_inService]

@[simp] theorem takeGap_rx (s : State) : s.takeGap.rx = s.rx := by
  rw [takeGap_frame, setLine_rx]

@[simp] theorem takeGap_ops (s : State) : s.takeGap.ops = s.ops := by
  rw [takeGap_frame, setLine_ops]

@[simp] theorem takeGap_hasData (s : State) : s.takeGap.hasData = s.hasData := by
  simp [State.hasData]

/-! ### The step where no byte arrives, one equation per move -/

section NoArrival

variable {s : State} (harr : s.arriving = none)
include harr

/-- In the drain loop the oldest waiting byte is decoded and its instruction executed (rule R178). -/
theorem step_drain {b : Byte} {rest : List Byte} (hs : s.inService = true) (hp : s.phase = .running)
    (hrx : s.rx = b :: rest) :
    step s = exec (decodeByte s.variant b) (s.takeGap.setRx rest) := by
  have hfetch : s.takeGap.fetch = some (decodeByte s.variant b, s.takeGap.setRx rest) := by
    rw [fetch_waiting (s := s.takeGap) (by simpa using hp) (by simpa using hrx), takeGap_variant]
  rw [step_action harr, action, takeGap_inService, hs, if_pos rfl, hfetch]

/-- In the drain loop the oldest waiting byte is fed (rule R178). -/
theorem step_feed {b : Byte} {rest : List Byte} (hs : s.inService = true) (hp : s.phase = .running)
    (hrx : s.rx = b :: rest) :
    step s = .next (feed b (s.takeGap.setRx rest)).state := by
  have hexec := exec_decodeByte (s := s.takeGap.setRx rest) b (by simpa using hp)
  rw [setRx_variant, takeGap_variant] at hexec
  rw [step_drain harr hs hp hrx, hexec]

/-- With `has_data()` false the drain loop ends (rule R178). -/
theorem step_leave (hs : s.inService = true) (hd : s.hasData = false) :
    step s = .next s.takeGap.leaveHandler := by
  have hfetch : s.takeGap.fetch = none := fetch_none (by rw [takeGap_hasData, hd])
  rw [step_action harr, action, takeGap_inService, hs, if_pos rfl, hfetch]

/-- Outside service the host's next operation is performed. -/
theorem step_host {op : HostOp} {rest : List HostOp} (hs : s.inService = false)
    (hops : s.ops = op :: rest) : step s = execHost op (s.takeGap.setOps rest) := by
  simp [step_action harr, action, hs, hops]

/-- With no operation pending a waiting byte's interrupt begins the drain loop (rules R176, R177). -/
theorem step_interrupt (hs : s.inService = false) (hops : s.ops = []) (hd : s.hasData = true) :
    step s = .next s.takeGap.enterHandler := by
  have hne : s.phase ≠ .stopped := by simp [((hasData_iff s).1 hd).1]
  simp [step_action harr, action, hs, hops, hd, opService, hne]

/-- With no operation pending and no byte waiting only a gap of the link passes (rule R187). -/
theorem step_idle (hs : s.inService = false) (hops : s.ops = []) (hd : s.hasData = false) :
    step s = .next s.takeGap := by
  simp [step_action harr, action, hs, hops, hd]

end NoArrival

/-! ### The link's next moment (rule R178) -/

/-- The listed moments come first. -/
theorem moment_line {s : State} {m : Arrival} {l : List Arrival} (hl : s.line = m :: l) :
    s.moment = some (m, s.setLine l s.beyond) := by
  rw [State.moment, hl]

/-- Beyond the listed moments a silent link has none. -/
theorem moment_silent {s : State} (hl : s.line = []) (hy : s.beyond = .silent) : s.moment = none := by
  rw [State.moment, hl, hy]

/-- Repeating no moment is having none. -/
theorem moment_repeating_nil {s : State} (hl : s.line = []) (hy : s.beyond = .repeating []) :
    s.moment = none := by
  rw [State.moment, hl, hy]

/-- The first moment of a repeating supply goes to its end. -/
theorem moment_repeating_cons {s : State} {m : Arrival} {ms : List Arrival} (hl : s.line = [])
    (hy : s.beyond = .repeating (m :: ms)) :
    s.moment = some (m, s.setLine [] (.repeating (ms ++ [m]))) := by
  rw [State.moment, hl, hy]

/-- The free supply goes on by one. -/
theorem moment_free {s : State} {n : Nat} (hl : s.line = []) (hy : s.beyond = .free n) :
    s.moment = some (freeMoment n, s.setLine [] (.free (n + 1))) := by
  rw [State.moment, hl, hy]

/-- A byte that is the next moment arrives in a step of its own, behind every waiting byte. -/
theorem step_moment_byte {s u : State} {b : Byte} (hp : s.phase = .running)
    (hm : s.moment = some (.byte b, u)) : step s = .next (u.receive b) :=
  step_arriving (moment_byte hp hm)

/-- With the line empty, writing it empty changes what comes beyond it alone. -/
theorem setLine_nil {s : State} (y : Beyond) (hl : s.line = []) :
    s.setLine [] y = { s with beyond := y } := by
  rw [State.setLine, ← hl]

/-- With the line empty and the link silent, no byte arrives and no moment is used up. -/
theorem silent_kept {s : State} (hl : s.line = []) (hy : s.beyond = .silent) :
    s.arriving = none ∧ s.takeGap = s :=
  moment_none (moment_silent hl hy)

/-- A gap at the head of the line lets no byte arrive and is used up. -/
theorem gap_taken {s : State} {l : List Arrival} (hp : s.phase = .running) (hl : s.line = .gap :: l) :
    s.arriving = none ∧ s.takeGap = { s with line := l } :=
  moment_gap hp (moment_line hl)

/-- Settles O46: each clause is the equation of `moment` for one form of the line and the supply. -/
theorem momentsOfTheLinkComeInOrder : Obligations.MomentsOfTheLinkComeInOrder := by
  refine fun s => ⟨moment_kept, fun hp => ⟨fun b l hl => ?_, fun l hl => gap_taken hp hl,
    fun hl => ⟨?_, fun b ms hy => ?_, fun ms hy => ?_, fun n hy => ?_⟩⟩⟩
  · exact step_moment_byte hp (moment_line hl)
  · rintro (hy | hy)
    · exact silent_kept hl hy
    · exact moment_none (moment_repeating_nil hl hy)
  · rw [step_moment_byte hp (moment_repeating_cons hl hy), setLine_nil _ hl]
    rfl
  · rw [← setLine_nil _ hl]
    exact moment_gap hp (moment_repeating_cons hl hy)
  · have hm := moment_free hl hy
    rw [freeMoment] at hm
    cases hbyte : Config.freeByte n with
    | some b =>
      rw [hbyte] at hm
      change step s = _
      rw [step_moment_byte hp hm, setLine_nil _ hl]
      rfl
    | none =>
      rw [hbyte] at hm
      change _ ∧ s.takeGap = _
      rw [← setLine_nil _ hl]
      exact moment_gap hp hm

/-! ### The drain loop and the interrupt, one step at a time -/

/-- Settles O6: `step_drain`, where the link is silent and where a gap lets the loop move. -/
theorem stepRunsTheDecodedInstruction : Obligations.StepRunsTheDecodedInstruction := by
  intro s i b rest hs hp hrx hdec
  have hi : decodeByte s.variant b = i := by
    rw [hrx] at hdec
    exact congrArg Prod.fst (Except.ok.inj hdec)
  have hdrain (harr : s.arriving = none) : step s = exec i (s.takeGap.setRx rest) := by
    rw [step_drain harr hs hp hrx, hi]
  refine ⟨hdrain, fun hl hy => ?_, fun l hl => ?_⟩
  · obtain ⟨harr, hgap⟩ := silent_kept hl hy
    rw [hdrain harr, hgap]
    rfl
  · obtain ⟨harr, hgap⟩ := gap_taken hp hl
    rw [hdrain harr, hgap]
    rfl

/-- Settles O43: by the three phases; in `Setup` `has_data()` is false whatever waits. -/
theorem serviceEntryChangesNothingOfTheBlock : Obligations.ServiceEntryChangesNothingOfTheBlock := by
  refine fun s => ⟨fun hp hrx => ?_, fun hp => ?_, fun hp => if_pos hp⟩
  · have hne : s.phase ≠ .stopped := by simp [hp]
    have hd : s.hasData = true := (hasData_iff s).2 ⟨hp, hrx⟩
    rw [execHost, opService, if_neg hne, if_pos hd, State.enterHandler]
  · have hne : s.phase ≠ .stopped := by simp [hp]
    exact execHost_service_notHandled hne (hasData_notRunning (by simp [hp]))

/-- Settles O44: `step_leave`, where the link is silent and where a gap lets the loop end. -/
theorem drainedHandlerReturnsHandled : Obligations.DrainedHandlerReturnsHandled := by
  intro s hs hd harr
  have hleave := step_leave harr hs hd
  refine ⟨?_, fun hl hy => ?_, fun l hp hl => ?_⟩
  · rw [hleave, State.leaveHandler, takeGap_results]
  · rw [hleave, (silent_kept hl hy).2, State.leaveHandler]
  · rw [hleave, (gap_taken hp hl).2, State.leaveHandler]

/-- Settles O45: `step_interrupt` and `step_idle`, in every phase and with a gap at the head of the line. -/
theorem waitingByteInterruptsAnIdleHost : Obligations.WaitingByteInterruptsAnIdleHost := by
  intro s hs hops
  refine ⟨fun harr => step_interrupt harr hs hops, fun harr => step_idle harr hs hops, fun hp => ?_,
    fun hl hy hrx => ?_, fun l hp hl => ⟨fun hrx => ?_, fun hrx => ?_⟩⟩
  · obtain ⟨harr, hgap⟩ := moment_kept hp
    rw [step_idle harr hs hops (hasData_notRunning hp), hgap]
  · obtain ⟨harr, hgap⟩ := silent_kept hl hy
    rw [step_idle harr hs hops (hasData_of_rx_nil hrx), hgap]
  · obtain ⟨harr, hgap⟩ := gap_taken hp hl
    rw [step_interrupt harr hs hops ((hasData_iff s).2 ⟨hp, hrx⟩), hgap, State.enterHandler]
  · obtain ⟨harr, hgap⟩ := gap_taken hp hl
    rw [step_idle harr hs hops (hasData_of_rx_nil hrx), hgap]

end Sys2Proof.Machine

namespace Sys2Proof.Machine

/-! ### What holds of every host operation -/

/-- A host operation keeps the parameters, and it writes no operation of the host's. -/
theorem execHost_keeps {op : HostOp} {s t : State} (h : execHost op s = .next t) :
    t.variant = s.variant ∧ t.pauseId = s.pauseId ∧ t.ops = s.ops := by
  obtain ⟨_, rfl⟩ | ⟨_, _, _, rfl⟩ | ⟨_, _, _, rfl⟩ | ⟨_, _, rfl⟩ | ⟨_, rfl⟩ | ⟨_, _, rfl⟩ |
    ⟨_, _, _, rfl⟩ := execHost_next h <;> exact ⟨rfl, rfl, rfl⟩

/-- A host operation changes the phase only as `enable`, `disable` or `reset` (rules R161, R162, R200). -/
theorem execHost_phase {op : HostOp} {s t : State} (h : execHost op s = .next t)
    (hne : t.phase ≠ s.phase) :
    (op = .enable ∧ s.phase = .setup ∧ t.phase = .running) ∨
    (op = .disable ∧ t.phase = .stopped) ∨ (op = .reset ∧ t.phase = .setup) := by
  obtain ⟨hop, rfl⟩ | ⟨_, _, _, rfl⟩ | ⟨_, _, _, rfl⟩ | ⟨hop, hp, rfl⟩ | ⟨hop, rfl⟩ | ⟨_, _, rfl⟩ |
    ⟨_, _, _, rfl⟩ := execHost_next h
  · exact .inr (.inr ⟨hop, rfl⟩)
  · exact absurd rfl hne
  · exact absurd rfl hne
  · exact .inl ⟨hop, hp, rfl⟩
  · exact .inr (.inl ⟨hop, rfl⟩)
  · exact absurd rfl hne
  · exact absurd rfl hne

/-- A host operation is `reset`, or it keeps the decoder's fields and the sink's trace (rules R154, R161,
R162). -/
theorem execHost_decoder {op : HostOp} {s t : State} (h : execHost op s = .next t) :
    (op = .reset ∧ t.idle = true ∧ t.out = []) ∨
    (t.brk = s.brk ∧ t.ext = s.ext ∧ t.pst = s.pst ∧ t.out = s.out) := by
  obtain ⟨hop, rfl⟩ | ⟨_, _, _, rfl⟩ | ⟨_, _, _, rfl⟩ | ⟨_, _, rfl⟩ | ⟨_, rfl⟩ | ⟨_, _, rfl⟩ |
    ⟨_, _, _, rfl⟩ := execHost_next h
  · exact .inl ⟨hop, rfl, rfl⟩
  all_goals exact .inr ⟨rfl, rfl, rfl, rfl⟩

/-- A host operation records a fault only as `configure` outside `Setup` (rule R143). -/
theorem execHost_faults {op : HostOp} {s t : State} (h : execHost op s = .next t)
    (hne : t.faults ≠ s.faults) :
    s.phase ≠ .setup ∧ t.faults = s.faults ++ [.configError s.phase] ∧ ∃ e, op = .configure e := by
  obtain ⟨_, rfl⟩ | ⟨_, _, _, rfl⟩ | ⟨e, hop, hp, rfl⟩ | ⟨_, _, rfl⟩ | ⟨_, rfl⟩ | ⟨_, _, rfl⟩ |
    ⟨_, _, _, rfl⟩ := execHost_next h
  case inr.inr.inl => exact ⟨hp, rfl, e, hop⟩
  all_goals exact absurd rfl hne

/-- A host operation that stays in `Running` keeps the table (rule R36). -/
theorem execHost_table_running {op : HostOp} {s t : State} (h : execHost op s = .next t)
    (hs : s.phase = .running) (ht : t.phase = .running) : t.table = s.table := by
  obtain ⟨_, rfl⟩ | ⟨_, _, hp, rfl⟩ | ⟨_, _, _, rfl⟩ | ⟨_, _, rfl⟩ | ⟨_, rfl⟩ | ⟨_, _, rfl⟩ |
    ⟨_, _, _, rfl⟩ := execHost_next h
  case inl => cases ht
  case inr.inl => cases hs.symm.trans hp
  all_goals rfl

/-- A host operation without a next state is `enable` outside `Setup` or `service` in `Stopped`, and stops
by that name (rules R160, R161, R178). -/
theorem execHost_stops {op : HostOp} {s : State} (h : ∀ t, execHost op s ≠ .next t) :
    (op = .enable ∧ s.phase ≠ .setup ∧ execHost op s = .fault (.enableNotAdmitted s.phase)) ∨
    (op = .service ∧ s.phase = .stopped ∧ execHost op s = .fault .handlerDetached) := by
  cases op with
  | reset => exact absurd rfl (h _)
  | configure e =>
    by_cases hp : s.phase = .setup
    · exact absurd (if_pos hp) (h _)
    · exact absurd (if_neg hp) (h _)
  | enable =>
    by_cases hp : s.phase = .setup
    · exact absurd (execHost_enable_setup hp) (h _)
    · exact .inl ⟨rfl, hp, execHost_enable_notSetup hp⟩
  | disable => exact absurd rfl (h _)
  | service =>
    obtain ⟨henter, _, hstopped⟩ := serviceEntryChangesNothingOfTheBlock s
    by_cases hp : s.phase = .stopped
    · exact .inr ⟨rfl, hp, hstopped hp⟩
    · cases hd : s.hasData with
      | true =>
        obtain ⟨hrun, hrx⟩ := (hasData_iff s).1 hd
        exact absurd (henter hrun hrx) (h _)
      | false => exact absurd (execHost_service_notHandled hp hd) (h _)

/-! ### What holds of every step -/

/-- Settles O54. -/
theorem noStepChangesTheParameters : Obligations.NoStepChangesTheParameters := by
  intro s t h
  cases moves_of_step h with
  | arrival | leave | interrupt | idle => exact ⟨rfl, rfl⟩
  | feed => simp
  | host _ _ _ _ _ _ _ hop =>
    obtain ⟨hv, hid, _⟩ := execHost_keeps hop
    exact ⟨hv, hid⟩

/-- Settles O36: `feed` writes no table, and of the host's operations `configure` in `Setup` and `reset`
alone do. -/
theorem tableIsConstantWhileRunning : Obligations.TableIsConstantWhileRunning := by
  intro s t h hp ht
  cases moves_of_step h with
  | arrival | leave | interrupt | idle => rfl
  | feed => simp
  | host op rest l y _ _ _ hop =>
    exact execHost_table_running (s := (s.setLine l y).setOps rest) hop hp ht

/-- Settles O55: of the six moves the host's alone writes the phase. -/
theorem onlyTheHostChangesThePhase : Obligations.OnlyTheHostChangesThePhase := by
  intro s t h hne
  cases moves_of_step h with
  | arrival | leave | interrupt | idle => exact absurd rfl hne
  | feed => simp at hne
  | host op rest l y _ hs hops hop =>
    obtain ⟨_, _, hkept⟩ := execHost_keeps hop
    refine ⟨hs, op, by rw [hops, hkept, setOps_ops], ?_⟩
    exact execHost_phase (s := (s.setLine l y).setOps rest) hop hne

/-- Settles O56: of the six moves `feed` alone, and `reset`, write the decoder's fields. -/
theorem pendingLeadInsNeverExpire : Obligations.PendingLeadInsNeverExpire := by
  intro s t h hne
  cases moves_of_step h with
  | arrival | leave | interrupt | idle => simp at hne
  | feed b rest l y _ hs hp hrx => exact .inl ⟨hs, hp, b, by simp [hrx]⟩
  | host op rest l y _ hs hops hop =>
    obtain ⟨_, _, hkept⟩ := execHost_keeps hop
    obtain ⟨rfl, hidle, _⟩ | ⟨hbrk, hext, hpst, _⟩ := execHost_decoder hop
    · exact .inr ⟨hs, by rw [hops, hkept, setOps_ops], hidle⟩
    · simp [hbrk, hext, hpst] at hne

/-- Settles O57: of the six moves `feed` alone emits, one frame at most. -/
theorem onlyFeedEmitsAndOneFrameAtMost : Obligations.OnlyFeedEmitsAndOneFrameAtMost := by
  intro s t h
  cases moves_of_step h with
  | arrival | leave | interrupt | idle => exact .inl rfl
  | feed b rest l y _ hs _ hrx =>
    obtain hout | ⟨e, hout⟩ := feed_out_cases b ((s.setLine l y).setRx rest)
    · exact .inl hout
    · exact .inr (.inl ⟨hs, ⟨b, by simp [hrx]⟩, e, hout⟩)
  | host op rest l y _ hs hops hop =>
    obtain ⟨_, _, hkept⟩ := execHost_keeps hop
    obtain ⟨rfl, _, hout⟩ | ⟨_, _, _, hout⟩ := execHost_decoder hop
    · exact .inr (.inr ⟨hs, by rw [hops, hkept, setOps_ops], hout⟩)
    · exact .inl hout

/-- Settles O58: of the six moves the host's alone records a fault. -/
theorem onlyLateConfigureRecordsAFault : Obligations.OnlyLateConfigureRecordsAFault := by
  intro s t h hne
  cases moves_of_step h with
  | arrival | leave | interrupt | idle => exact absurd rfl hne
  | feed => simp at hne
  | host op rest l y _ hs hops hop =>
    obtain ⟨_, _, hkept⟩ := execHost_keeps hop
    obtain ⟨hp, hfaults, e, rfl⟩ := execHost_faults hop hne
    exact ⟨hp, hfaults, e, by rw [hops, hkept, setOps_ops]⟩

/-- Settles O59: where no host operation is performed each move has a next state, and of the host's
operations `execHost_stops` says which have none. -/
theorem onlyAnUnadmittedOperationStopsTheMachine :
    Obligations.OnlyAnUnadmittedOperationStopsTheMachine := by
  intro s _ hstop
  cases harr : s.arriving with
  | some arrival => exact absurd (step_arriving harr) (hstop _)
  | none =>
    cases hs : s.inService with
    | true =>
      cases hd : s.hasData with
      | false => exact absurd (step_leave harr hs hd) (hstop _)
      | true =>
        obtain ⟨hp, hrx⟩ := (hasData_iff s).1 hd
        obtain ⟨b, rest, hrx⟩ := List.exists_cons_of_ne_nil hrx
        exact absurd (step_feed harr hs hp hrx) (hstop _)
    | false =>
      cases hops : s.ops with
      | nil =>
        cases hd : s.hasData with
        | true => exact absurd (step_interrupt harr hs hops hd) (hstop _)
        | false => exact absurd (step_idle harr hs hops hd) (hstop _)
      | cons op rest =>
        have hhost := step_host harr hs hops
        have hphase : (s.takeGap.setOps rest).phase = s.phase := by simp
        rw [hhost] at hstop ⊢
        rw [← hphase]
        obtain ⟨rfl, hrefused⟩ | ⟨rfl, hrefused⟩ := execHost_stops hstop
        · exact ⟨rfl, .inl ⟨rfl, hrefused⟩⟩
        · exact ⟨rfl, .inr ⟨rfl, hrefused⟩⟩

/-- Settles O40: `reset` and `disable` are record updates of what they name, and a step from `Stopped`
writes neither the waiting bytes nor the line. -/
theorem resetAndDisableKeepTheSurroundings : Obligations.ResetAndDisableKeepTheSurroundings := by
  refine ⟨fun s t h => ?_, fun s t h => ?_, fun s t hp h => ?_⟩
  · obtain rfl : s.clear = t := Host.Outcome.next.inj h
    rfl
  · obtain rfl : s.setPhase .stopped = t := Host.Outcome.next.inj h
    rfl
  · obtain hkept | ⟨rest, _, rfl⟩ := step_stopped hp h
    · rw [hkept]
      exact ⟨rfl, rfl, rfl⟩
    · exact ⟨rfl, rfl, rfl⟩

/-! ### What holds of every step of the drain loop -/

/-- Settles O51: while service runs a step is an arrival, a `feed` or the loop's end. -/
theorem hostOperationsWaitForTheHandler : Obligations.HostOperationsWaitForTheHandler := by
  intro s t hs h
  cases moves_of_step h with
  | arrival | leave => exact ⟨rfl, rfl, rfl, rfl⟩
  | feed => simp
  | host _ _ _ _ _ hs' => simp [hs] at hs'
  | interrupt _ _ hs' => simp [hs] at hs'
  | idle _ _ hs' => simp [hs] at hs'

/-- Settles O50: of the three moves of the loop the end alone clears `inService`, and it is made where
nothing arrives and nothing waits. -/
theorem serviceEndsOnlyWithNoDataLeft : Obligations.ServiceEndsOnlyWithNoDataLeft := by
  intro s t hs h
  cases moves_of_step h with
  | arrival b l y _ harr => simp [hs, harr]
  | feed b rest l y harr _ hp hrx =>
    have hd : s.hasData = true := (hasData_iff s).2 ⟨hp, by simp [hrx]⟩
    simp [hs, hd]
  | leave l y harr _ hd => simp [hd, harr]
  | host _ _ _ _ _ hs' => simp [hs] at hs'
  | interrupt _ _ hs' => simp [hs] at hs'
  | idle _ _ hs' => simp [hs] at hs'

end Sys2Proof.Machine

namespace Sys2Proof.Machine

/-! ### Frames of the instructions -/

/-- Settles O27: the next state is that of one record update of the sentinel's own field. -/
theorem sentinelsChangeOnlyTheirOwnField : Obligations.SentinelsChangeOnlyTheirOwnField := by
  intro i s t hi h
  obtain ⟨_, _, rfl⟩ := exec_next h
  simp only [List.mem_cons, List.not_mem_nil, or_false] at hi
  obtain rfl | rfl | rfl | rfl := hi <;>
    simp [feedInstr, feedOvr, feedBrk, feedExt, feedPau, State.lookup]

/-- Settles O28: the common frame of every instruction, and the two branches of `MB.DATA`. -/
theorem eventInstructionsChangeOnlyDecoderAndTrace :
    Obligations.EventInstructionsChangeOnlyDecoderAndTrace := by
  intro i s t hi h
  obtain ⟨_, _, rfl⟩ := exec_next h
  have hcases : (∃ d, i = .mbData d) ∨ ∃ k, i = .sbMake k ∨ i = .sbBreak k := by
    cases i <;> simp at hi ⊢
  have habsorbed (hv : i.variant = .multiByte) (h2 : s.pst = .two) :
      (feedInstr i s).state = s.absorbPause := by
    obtain ⟨d, rfl⟩ | ⟨k, rfl | rfl⟩ := hcases
    · rw [feedInstr, feedData_absorbed d h2]
    · cases hv
    · cases hv
  have hemits (hv : i.variant = .singleByte) : ∃ e, (feedInstr i s).state = s.emit e := by
    obtain ⟨d, rfl⟩ | ⟨k, rfl | rfl⟩ := hcases
    · cases hv
    · exact ⟨_, rfl⟩
    · exact ⟨_, rfl⟩
  rw [feedInstr_frame i s]
  refine ⟨fun _ => rfl, rfl, rfl, rfl, rfl, rfl, rfl, rfl, rfl, rfl, rfl, rfl,
    feedInstr_out_cases i s, fun hv h2 => ?_, fun hv => ?_⟩
  · rw [habsorbed hv h2]
    exact ⟨rfl, rfl, rfl⟩
  · obtain ⟨e, he⟩ := hemits hv
    rw [he]
    exact ⟨rfl, rfl, rfl⟩

/-! ### `PAUSE_ID` -/

/-- Another value of `PAUSE_ID`. -/
def State.withPauseId (s : State) (p : Byte) : State := { s with pauseId := p }

/-- But for `MB.DATA` at `pst` 1 no instruction reads `PAUSE_ID` (rule R107). -/
theorem feedInstr_withPauseId {i : Instr} {s : State} (p : Byte)
    (h : (∀ d, i ≠ .mbData d) ∨ s.pst ≠ .one) :
    (feedInstr i (s.withPauseId p)).state = (feedInstr i s).state.withPauseId p := by
  cases i with
  | mbOvr | mbBrk | mbExt | mbPau | sbMake | sbBreak => rfl
  | mbData d =>
    have h1 : s.pst ≠ .one := h.resolve_left fun hne => hne d rfl
    by_cases h2 : s.pst = .two
    · rw [feedInstr, feedInstr, feedData_absorbed d h2, feedData_absorbed (s := s.withPauseId p) d h2]
      rfl
    · have hsubst : substPause (s.withPauseId p) d = substPause s d :=
        (if_neg h1).trans (if_neg h1).symm
      have hevent : dataEvent (s.withPauseId p) d = dataEvent s d := by
        rw [dataEvent, mbIndex, hsubst]
        rfl
      rw [feedInstr, feedInstr, feedData_resolved d h2, feedData_resolved (s := s.withPauseId p) d h2,
        hevent]
      rfl

/-- Settles O31: admission does not read `PAUSE_ID`, and the effect does not by `feedInstr_withPauseId`. -/
theorem pauseIdIsReadOnlyAtPauseStageOne : Obligations.PauseIdIsReadOnlyAtPauseStageOne := by
  intro i s t p hi h
  obtain ⟨hp, hv, rfl⟩ := exec_next h
  have hexec := exec_admitted (s := s.withPauseId p) i hp hv
  rw [feedInstr_withPauseId p hi] at hexec
  exact hexec

/-! ### Events and their frames -/

/-- Settles O19: a byte with an event is a data byte that is resolved, and that clears all three fields. -/
theorem everyEventLeavesTheDecoderIdle : Obligations.EveryEventLeavesTheDecoderIdle := by
  intro s b hp hv he
  have hexec := exec_decodeByte b hp
  rw [hv] at hexec
  refine ⟨_, hexec, ?_⟩
  cases hb : isSentinel b with
  | true =>
    obtain rfl | rfl | rfl | rfl := (isSentinel_iff b).1 hb
    · simp [feed_ovr hv] at he
    · simp [feed_brk hv] at he
    · simp [feed_ext hv] at he
    · simp [feed_pau hv] at he
  | false =>
    by_cases h2 : s.pst = .two
    · simp [feed_data_absorbed hv hb h2] at he
    · rw [feed_data hv hb, feedData_resolved b h2]
      rfl

/-- Settles O29: by induction on the bytes, of which each appends the frame of its event. -/
theorem traceIsTheFramesOfTheEvents : Obligations.TraceIsTheFramesOfTheEvents := by
  intro bs
  induction bs with
  | nil => exact fun s => ⟨(List.append_nil s.out).symm, le_rfl⟩
  | cons b bs ih =>
    intro s
    obtain ⟨hout, hlength⟩ := ih (feed b s).state
    have hbyte : (feed b s).state.out = s.out ++ framesOf (feed b s).event.toList := feedInstr_out _ s
    have hevent : (feed b s).event.toList.length ≤ 1 := by
      cases (feed b s).event <;> simp
    constructor
    · rw [feedAll, hout, hbyte, eventsOf, framesOf, framesOf, framesOf, List.flatMap_append,
        List.append_assoc]
    · rw [eventsOf, List.length_append, List.length_cons]
      omega

/-! ### What a byte sequence yields -/

/-- Feeding `bs` from `s` returns the events `es` and ends in `t`. -/
def Yields (s : State) (bs : List Byte) (es : List KeyEvent) (t : State) : Prop :=
  eventsOf bs s = es ∧ feedAll bs s = t

/-- The state after a data byte was resolved into the event `e` (rules R107 to R110). -/
def State.resolved (s : State) (e : KeyEvent) : State :=
  { s with brk := false, ext := false, pst := .zero, out := s.out ++ frame e }

namespace Yields

variable {s t u : State}

theorem nil (s : State) : Yields s [] [] s := ⟨rfl, rfl⟩

/-- A byte that yields no event, and then the rest. -/
theorem silent {b : Byte} {bs : List Byte} {es : List KeyEvent} (h : feed b s = ⟨none, t⟩)
    (hrest : Yields t bs es u) : Yields s (b :: bs) es u := by
  obtain ⟨hevents, hstate⟩ := hrest
  exact ⟨by rw [eventsOf_cons_silent bs h, hevents], by rw [feedAll, h, hstate]⟩

/-- One sequence and then another. -/
theorem append {bs cs : List Byte} {es fs : List KeyEvent} (h : Yields s bs es t)
    (hrest : Yields t cs fs u) : Yields s (bs ++ cs) (es ++ fs) u := by
  obtain ⟨hevents, hstate⟩ := h
  obtain ⟨hevents', hstate'⟩ := hrest
  constructor
  · rw [eventsOf_append, hevents, hstate, hevents']
  · rw [feedAll_append, hstate, hstate']

/-- A data byte at `pst` 2 (rule R106). -/
theorem absorbed {d : Byte} (hv : s.variant = .multiByte) (hd : isSentinel d = false)
    (h2 : s.pst = .two) : Yields s [d] [] s.absorbPause :=
  silent (feed_data_absorbed hv hd h2) (nil _)

/-- A data byte at `pst` 0 or 1 (rule R111). -/
theorem resolved {d : Byte} (hv : s.variant = .multiByte) (hd : isSentinel d = false)
    (h2 : s.pst ≠ .two) : Yields s [d] [dataEvent s d] (s.resolved (dataEvent s d)) := by
  have hfeed : feed d s = ⟨some (dataEvent s d), s.resolved (dataEvent s d)⟩ := by
    rw [feed_data hv hd, feedData_resolved d h2, State.resolved]
  exact ⟨by rw [eventsOf, hfeed]; rfl, by rw [feedAll, hfeed]; rfl⟩

end Yields

/-! ### Sequences of sentinels (rule R114) -/

/-- What any sequence of sentinels does, in any order (rule R114). -/
def State.leadIns (s : State) (bs : List Byte) : State :=
  { s with brk := s.brk || bs.contains 0xF0#8, ext := s.ext || bs.contains 0xE0#8,
           pst := if bs.contains 0xE1#8 then .two else s.pst }

theorem leadIns_nil (s : State) : s.leadIns [] = s := by
  simp [State.leadIns]

theorem leadIns_ovr (s : State) (bs : List Byte) : s.leadIns (0xFF#8 :: bs) = s.leadIns bs := by
  simp [State.leadIns]

theorem leadIns_brk (s : State) (bs : List Byte) :
    s.leadIns (0xF0#8 :: bs) = s.setBrk.leadIns bs := by
  simp [State.leadIns, State.setBrk]

theorem leadIns_ext (s : State) (bs : List Byte) :
    s.leadIns (0xE0#8 :: bs) = s.setExt.leadIns bs := by
  simp [State.leadIns, State.setExt]

theorem leadIns_pau (s : State) (bs : List Byte) :
    s.leadIns (0xE1#8 :: bs) = s.startPause.leadIns bs := by
  simp [State.leadIns, State.startPause]

/-- A sequence of sentinels yields no event and writes each field as if it stood alone (rule R114). -/
theorem yields_sentinels (bs : List Byte) {s : State} (hv : s.variant = .multiByte)
    (hbs : ∀ b ∈ bs, isSentinel b = true) : Yields s bs [] (s.leadIns bs) := by
  induction bs generalizing s with
  | nil => rw [leadIns_nil]; exact .nil s
  | cons b bs ih =>
    obtain ⟨hb, hrest⟩ := List.forall_mem_cons.1 hbs
    obtain rfl | rfl | rfl | rfl := (isSentinel_iff b).1 hb
    · rw [leadIns_ovr]; exact .silent (feed_ovr hv) (ih hv hrest)
    · rw [leadIns_brk]; exact .silent (feed_brk hv) (ih hv hrest)
    · rw [leadIns_ext]; exact .silent (feed_ext hv) (ih hv hrest)
    · rw [leadIns_pau]; exact .silent (feed_pau hv) (ih hv hrest)

/-- Settles O20. -/
theorem leadInsAreIndependentAndLastWriteWins : Obligations.LeadInsAreIndependentAndLastWriteWins :=
  fun bs _ hv hbs => yields_sentinels bs hv hbs

/-! ### From `Idle` -/

/-- `Idle` in words (rule R19). -/
theorem idle_iff (s : State) : s.idle = true ↔ s.brk = false ∧ s.ext = false ∧ s.pst = .zero := by
  simp [State.idle, and_assoc]

/-- The lead-ins that bring an `Idle` decoder to a triple with pause stage 0 or 2. -/
def leadInsTo (f e : Bool) (p : PauseStage) : List Byte :=
  (if f then [0xF0#8] else []) ++ (if e then [0xE0#8] else []) ++ (if p = .two then [0xE1#8] else [])

theorem leadInsTo_sentinel (f e : Bool) (p : PauseStage) :
    ∀ b ∈ leadInsTo f e p, isSentinel b = true := by
  cases f <;> cases e <;> cases p <;> decide

/-- Every triple with pause stage 0 or 2 is reached by its lead-ins (rule R26). -/
theorem yields_leadInsTo {s : State} (hv : s.variant = .multiByte) (hidle : s.idle = true) (f e : Bool)
    {p : PauseStage} (hp : p ≠ .one) :
    Yields s (leadInsTo f e p) [] { s with brk := f, ext := e, pst := p } := by
  have hfields : ((leadInsTo f e p).contains 0xF0#8 = f ∧ (leadInsTo f e p).contains 0xE0#8 = e) ∧
      (leadInsTo f e p).contains 0xE1#8 = decide (p = .two) := by
    cases f <;> cases e <;> cases p <;> decide
  obtain ⟨⟨hf, he⟩, htwo⟩ := hfields
  obtain ⟨hbrk, hext, hpst⟩ := (idle_iff s).1 hidle
  have hstage : (if decide (p = .two) = true then PauseStage.two else .zero) = p := by
    cases p with
    | zero | two => rfl
    | one => exact absurd rfl hp
  have hleads : s.leadIns (leadInsTo f e p) = { s with brk := f, ext := e, pst := p } := by
    rw [State.leadIns, hf, he, htwo, hbrk, hext, hpst, hstage, Bool.false_or, Bool.false_or]
  rw [← hleads]
  exact yields_sentinels _ hv (leadInsTo_sentinel f e p)

/-- Settles O22: pause stage 0 and 2 by lead-ins alone, stage 1 by one absorbed data byte more. -/
theorem allTwelveTriplesAreReachable : Obligations.AllTwelveTriplesAreReachable := by
  intro s hv hidle f e p
  cases p with
  | zero => exact ⟨_, yields_leadInsTo hv hidle f e nofun⟩
  | two => exact ⟨_, yields_leadInsTo hv hidle f e nofun⟩
  | one =>
    have hzero : isSentinel 0x00#8 = false := by decide
    have htwo := yields_leadInsTo hv hidle f e (p := .two) nofun
    exact ⟨_, htwo.append (.absorbed hv hzero rfl)⟩

/-- Whatever lead-ins were pending, a resolved byte leaves an `Idle` state as it was but for the frame. -/
theorem resolved_of_idle {s : State} (hidle : s.idle = true) (f e : Bool) (p : PauseStage)
    (k : KeyEvent) : ({ s with brk := f, ext := e, pst := p } : State).resolved k = s.emit k := by
  obtain ⟨hbrk, hext, hpst⟩ := (idle_iff s).1 hidle
  simp [State.resolved, State.emit, hbrk, hext, hpst]

/-- With `ext` and `pst` clear the event is that of the byte itself (rules R80, R110). -/
theorem dataEvent_plain {s : State} (d : Byte) (he : s.ext = false) (h0 : s.pst = .zero) :
    dataEvent s d = ⟨s.lookup d, !s.brk⟩ := by
  simp [dataEvent, mbIndex, markExtended, substPause_zero d h0, he, State.pressed]

/-- With `ext` alone pending the event is that of the byte with bit 7 set (rules R80, R110). -/
theorem dataEvent_extended {s : State} (d : Byte) (he : s.ext = true) (h0 : s.pst = .zero) :
    dataEvent s d = ⟨s.lookup (d ||| 0x80#8), !s.brk⟩ := by
  rw [dataEvent, mbIndex_of_ext d he, substPause_zero d h0, extBit, State.pressed]

/-- At `pst` 1 with `ext` clear the event is that of `PAUSE_ID` (rules R80, R110). -/
theorem pauseEvent_plain {s : State} (he : s.ext = false) :
    pauseEvent s = ⟨s.lookup s.pauseId, !s.brk⟩ := by
  simp [pauseEvent, markExtended, he, State.pressed]

/-- Silent bytes and then a resolved data byte yield the one event of that byte. -/
theorem yields_key {s t : State} {bs : List Byte} {d : Byte} {k : KeyEvent}
    (hlead : Yields s bs [] t) (hv : t.variant = .multiByte) (hd : isSentinel d = false)
    (h2 : t.pst ≠ .two) (hk : dataEvent t d = k) : Yields s (bs ++ [d]) [k] (t.resolved k) := by
  have hdata := Yields.resolved hv hd h2
  rw [hk] at hdata
  exact hlead.append hdata

/-- The state after the frames of the given events, with nothing else changed. -/
def State.sent (s : State) (es : List KeyEvent) : State := { s with out := s.out ++ framesOf es }

theorem sent_nil (s : State) : s.sent [] = s := by
  simp [State.sent, framesOf]

theorem sent_singleton (s : State) (k : KeyEvent) : s.sent [k] = s.emit k := by
  simp [State.sent, State.emit, framesOf]

theorem sent_append (s : State) (es fs : List KeyEvent) : s.sent (es ++ fs) = (s.sent es).sent fs := by
  simp [State.sent, framesOf]

/-- What a unit stands for does not depend on what was sent before. -/
theorem unitEvents_sent (s : State) (es : List KeyEvent) : unitEvents (s.sent es) = unitEvents s := by
  funext u
  cases u <;> rfl

/-- From `Idle` a well-formed unit yields its events, sends their frames and changes nothing else (the rows
of rule R76's table). -/
theorem yields_unit {s : State} {u : Unit76} (hv : s.variant = .multiByte) (hidle : s.idle = true)
    (hu : u.wellFormed = true) : Yields s u.bytes (unitEvents s u) (s.sent (unitEvents s u)) := by
  obtain ⟨hbrk, hext, hpst⟩ := (idle_iff s).1 hidle
  have hsent (k : KeyEvent) (f e : Bool) (p : PauseStage) :
      ({ s with brk := f, ext := e, pst := p } : State).resolved k = s.sent [k] := by
    rw [resolved_of_idle hidle, sent_singleton]
  have h2 : s.pst ≠ .two := by simp [hpst]
  cases u with
  | keyDown d =>
    have hd : isSentinel d = false := by simpa [Unit76.wellFormed] using hu
    rw [unitEvents, ← hsent _ s.brk s.ext s.pst]
    refine yields_key (.nil s) hv hd h2 ?_
    rw [dataEvent_plain d hext hpst, hbrk, Bool.not_false]
  | keyUp d =>
    have hd : isSentinel d = false := by simpa [Unit76.wellFormed] using hu
    rw [unitEvents, ← hsent _ true s.ext s.pst]
    exact yields_key (.silent (feed_brk hv) (.nil s.setBrk)) hv hd h2
      (dataEvent_plain (s := s.setBrk) d hext hpst)
  | xKeyDown d =>
    have hd : isSentinel d = false := by simpa [Unit76.wellFormed] using hu
    rw [unitEvents, ← hsent _ s.brk true s.pst]
    refine yields_key (.silent (feed_ext hv) (.nil s.setExt)) hv hd h2 ?_
    rw [dataEvent_extended (s := s.setExt) d rfl hpst, setExt_brk, hbrk]
    rfl
  | xKeyUp d =>
    have hd : isSentinel d = false := by simpa [Unit76.wellFormed] using hu
    have hlead : Yields s [0xE0#8, 0xF0#8] [] s.setExt.setBrk :=
      .silent (feed_ext hv) (.silent (feed_brk hv) (.nil _))
    rw [unitEvents, ← hsent _ true true s.pst]
    exact yields_key hlead hv hd h2 (dataEvent_extended (s := s.setExt.setBrk) d rfl hpst)
  | pauseKey d1 d2 =>
    obtain ⟨hd1, hd2⟩ : isSentinel d1 = false ∧ isSentinel d2 = false := by
      simpa [Unit76.wellFormed] using hu
    have hlead : Yields s [0xE1#8, d1] [] s.startPause.absorbPause :=
      .silent (feed_pau hv) (.absorbed hv hd1 rfl)
    rw [unitEvents, ← hsent _ s.brk s.ext .one]
    refine yields_key hlead hv hd2 nofun ?_
    rw [dataEvent_pause (s := s.startPause.absorbPause) d2 rfl,
      pauseEvent_plain (s := s.startPause.absorbPause) hext, absorbPause_brk, startPause_brk, hbrk]
    rfl
  | overrun =>
    rw [unitEvents, sent_nil]
    exact .silent (feed_ovr hv) (.nil s)

/-- Settles O21: by induction on the units, each of which leaves the decoder `Idle`. -/
theorem wellFormedStreamsYieldTheirUnitsEvents : Obligations.WellFormedStreamsYieldTheirUnitsEvents := by
  intro us s hv hidle hus
  change Yields s (us.flatMap Unit76.bytes) (us.flatMap (unitEvents s))
    (s.sent (us.flatMap (unitEvents s)))
  induction us generalizing s with
  | nil =>
    rw [List.flatMap_nil, List.flatMap_nil, sent_nil]
    exact .nil s
  | cons u us ih =>
    obtain ⟨hu, hrest⟩ := List.forall_mem_cons.1 hus
    have hunits := ih (s.sent (unitEvents s u)) hv hidle hrest
    rw [unitEvents_sent] at hunits
    rw [List.flatMap_cons, List.flatMap_cons, sent_append]
    exact (yields_unit hv hidle hu).append hunits

/-- Settles O23: both sequences end in a resolved data byte with the same index. -/
theorem extendedKeyCollidesWithBitSevenByte : Obligations.ExtendedKeyCollidesWithBitSevenByte := by
  intro s d hv hidle hd hd7
  have hextended := yields_unit (u := .xKeyDown d) hv hidle (by simp [Unit76.wellFormed, hd])
  have hplain := yields_unit (u := .keyDown (d ||| 0x80#8)) hv hidle (by simp [Unit76.wellFormed, hd7])
  obtain ⟨hevents, hstate⟩ := hextended
  obtain ⟨hevents', hstate'⟩ := hplain
  exact ⟨hevents.trans hevents'.symm, hstate.trans hstate'.symm⟩

end Sys2Proof.Machine

namespace Sys2Proof.Machine

/-! ### The table -/

/-- Settles O32: the write is `Memory.ofEntries`, which is canonical and reads the array's entries. -/
theorem configureReplacesTheWholeTable : Obligations.ConfigureReplacesTheWholeTable := fun s e hp =>
  ⟨s.setTable e, execHost_configure_setup e hp, rfl, wf_ofEntries e, read_ofEntries e⟩

/-- Settles O33: the failing branch of `opConfigure`. -/
theorem lateConfigureRecordsConfigErrorOnly : Obligations.LateConfigureRecordsConfigErrorOnly := by
  intro s e hp
  rw [execHost, opConfigure, if_neg hp, State.raise]

/-- The canonical form of a table that is not empty. -/
theorem wfFrom_cons {lo a : Nat} {v : Byte} {m : Memory} :
    Memory.wfFrom lo ((a, v) :: m) = true ↔
      lo ≤ a ∧ a < 256 ∧ v ≠ tableDefault ∧ m.wfFrom (a + 1) = true := by
  simp [Memory.wfFrom, and_assoc]

/-- What the entry listed first reads as. -/
theorem readAt_cons_self (a : Nat) (v : Byte) (m : Memory) : Memory.readAt ((a, v) :: m) a = v :=
  if_pos rfl

/-- Every other index is read from the rest. -/
theorem readAt_cons_of_ne {a k : Nat} (v : Byte) (m : Memory) (h : a ≠ k) :
    Memory.readAt ((a, v) :: m) k = m.readAt k :=
  if_neg h

/-- Below its first index a canonical table reads `TABLE_DEFAULT`. -/
theorem readAt_of_lt_wfFrom {m : Memory} {lo k : Nat} (hm : m.wfFrom lo = true) (hk : k < lo) :
    m.readAt k = tableDefault := by
  induction m generalizing lo with
  | nil => rfl
  | cons c m ih =>
    obtain ⟨a, v⟩ := c
    obtain ⟨hlo, _, _, hrest⟩ := wfFrom_cons.1 hm
    rw [readAt_cons_of_ne v m (by omega), ih hrest (by omega)]

/-- A canonical table whose first index is `a` and one that begins after `a` read differently at `a`. -/
theorem readAt_head_ne {m n : Memory} {lo a : Nat} {v : Byte}
    (hm : Memory.wfFrom lo ((a, v) :: m) = true) (hn : n.wfFrom (a + 1) = true) :
    Memory.readAt ((a, v) :: m) a ≠ n.readAt a := by
  obtain ⟨_, _, hv, _⟩ := wfFrom_cons.1 hm
  rw [readAt_cons_self, readAt_of_lt_wfFrom hn (Nat.lt_succ_self a)]
  exact hv

/-- Canonical tables that read alike at every index are equal data. -/
theorem eq_of_readAt_eq {m n : Memory} {lo : Nat} (hm : m.wfFrom lo = true) (hn : n.wfFrom lo = true)
    (h : ∀ k < 256, m.readAt k = n.readAt k) : m = n := by
  induction m generalizing n lo with
  | nil =>
    cases n with
    | nil => rfl
    | cons c n =>
      obtain ⟨_, ha, _, _⟩ := wfFrom_cons.1 hn
      exact absurd (h _ ha).symm (readAt_head_ne hn rfl)
  | cons c m ih =>
    obtain ⟨a, v⟩ := c
    obtain ⟨hlo, ha, hv, hmrest⟩ := wfFrom_cons.1 hm
    cases n with
    | nil => exact absurd (h a ha) (readAt_head_ne hm rfl)
    | cons c n =>
      obtain ⟨a', v'⟩ := c
      obtain ⟨hlo', ha', hv', hnrest⟩ := wfFrom_cons.1 hn
      obtain hlt | rfl | hgt := Nat.lt_trichotomy a a'
      · have hlater : Memory.wfFrom (a + 1) ((a', v') :: n) = true :=
          wfFrom_cons.2 ⟨hlt, ha', hv', hnrest⟩
        exact absurd (h a ha) (readAt_head_ne hm hlater)
      · have hentry := h a ha
        rw [readAt_cons_self, readAt_cons_self] at hentry
        have hrest : m = n := by
          refine ih hmrest hnrest fun k hk => ?_
          by_cases hle : k < a + 1
          · rw [readAt_of_lt_wfFrom hmrest hle, readAt_of_lt_wfFrom hnrest hle]
          · have hne : a ≠ k := by omega
            have hread := h k hk
            rwa [readAt_cons_of_ne v m hne, readAt_cons_of_ne v' n hne] at hread
        rw [hentry, hrest]
      · have hlater : Memory.wfFrom (a' + 1) ((a, v) :: m) = true :=
          wfFrom_cons.2 ⟨hgt, ha, hv, hmrest⟩
        exact absurd (h a' ha').symm (readAt_head_ne hn hlater)

/-- Settles O35: every index below 256 is that of a byte. -/
theorem canonicalTablesThatReadAlikeAreEqual : Obligations.CanonicalTablesThatReadAlikeAreEqual := by
  intro m n hm hn h
  refine eq_of_readAt_eq hm hn fun k hk => ?_
  have hread := h (BitVec.ofNat 8 k)
  rwa [Memory.read, Memory.read, BitVec.toNat_ofNat, Nat.mod_eq_of_lt hk] at hread

end Sys2Proof.Machine

namespace Sys2Proof.Machine

/-! ### Arrivals (rule R54) -/

/-- Settles O47: by induction on the bytes, of which each is the link's next moment. -/
theorem bytesWaitInArrivalOrder : Obligations.BytesWaitInArrivalOrder := by
  intro bs
  induction bs with
  | nil => intro s _; simp [run_zero]
  | cons b bs ih =>
    intro s hp
    have hstep : step { s with line := (b :: bs).map Arrival.byte } =
        .next { s with rx := s.rx ++ [b], line := bs.map Arrival.byte } :=
      step_moment_byte (s := s.setLine ((b :: bs).map Arrival.byte) s.beyond) hp (moment_line rfl)
    have hrest := ih { s with rx := s.rx ++ [b] } hp
    rw [List.length_cons, run_next _ hstep, hrest, List.append_assoc, List.singleton_append]

/-! ### The drain loop with a silent link (rule R178) -/

/-- The state in the drain loop with `rest` still waiting. -/
def State.drain (s : State) (rest : List Byte) : State := { s with inService := true, rx := rest }

/-- `feed` neither reads nor writes what the drain loop holds. -/
theorem feed_drain (b : Byte) (s : State) (rest : List Byte) :
    (feed b (s.drain rest)).state = (feed b s).state.drain rest := by
  have hinstr (i : Instr) : (feedInstr i (s.drain rest)).state = (feedInstr i s).state.drain rest := by
    cases i with
    | mbOvr | mbBrk | mbExt | mbPau | sbMake | sbBreak => rfl
    | mbData d =>
      by_cases h2 : s.pst = .two
      · rw [feedInstr, feedInstr, feedData_absorbed d h2, feedData_absorbed (s := s.drain rest) d h2]
        rfl
      · rw [feedInstr, feedInstr, feedData_resolved d h2, feedData_resolved (s := s.drain rest) d h2]
        rfl
  exact hinstr _

/-- The drain loop with a silent link feeds every waiting byte in order and then ends. -/
theorem run_drain (bs : List Byte) {s : State} (hp : s.phase = .running) (hl : s.line = [])
    (hy : s.beyond = .silent) :
    Host.Core.run core (bs.length + 1) (s.drain bs)
      = .next ((feedAll bs s).drain []).leaveHandler := by
  induction bs generalizing s with
  | nil =>
    obtain ⟨harr, hgap⟩ := silent_kept (s := s.drain []) hl hy
    have hstep := step_leave harr rfl (hasData_of_rx_nil rfl)
    rw [hgap] at hstep
    exact run_next 0 hstep
  | cons b bs ih =>
    obtain ⟨harr, hgap⟩ := silent_kept (s := s.drain (b :: bs)) hl hy
    have hstep := step_feed harr rfl hp rfl
    have hfed : (feed b ((s.drain (b :: bs)).setRx bs)).state = (feed b s).state.drain bs :=
      feed_drain b s bs
    rw [hgap, hfed] at hstep
    rw [List.length_cons, run_next _ hstep, feedAll]
    exact ih (by rw [feed_phase, hp]) (by rw [feed_line, hl]) (by rw [feed_beyond, hy])

/-- A byte sequence leaves the record of results, the waiting bytes and the handler's mark. -/
theorem feedAll_records (bs : List Byte) (s : State) :
    (feedAll bs s).results = s.results ∧ (feedAll bs s).rx = s.rx ∧
      (feedAll bs s).inService = s.inService := by
  induction bs generalizing s with
  | nil => exact ⟨rfl, rfl, rfl⟩
  | cons b bs ih =>
    have hrest := ih (feed b s).state
    rwa [feed_results, feed_rx, feed_inService] at hrest

/-- The end of the drain loop, with nothing left waiting. -/
theorem leaveHandler_drain {s : State} (hs : s.inService = false) (hrx : s.rx = []) :
    (s.drain []).leaveHandler = { s with results := s.results ++ [.handled] } := by
  rw [State.drain, State.leaveHandler, ← hs, ← hrx]

/-- Settles O48: one step enters the drain loop, and `run_drain` says what the loop does. -/
theorem serviceDrainsEveryWaitingByte : Obligations.ServiceDrainsEveryWaitingByte := by
  intro bs s hbs hp hs
  have hentry : step { s with rx := bs, line := [], beyond := .silent, ops := [HostOp.service] } =
      .next (State.drain { s with rx := [], line := [], beyond := .silent, ops := [] } bs) := by
    obtain ⟨harr, hgap⟩ := silent_kept
      (s := { s with rx := bs, line := [], beyond := .silent, ops := [HostOp.service] }) rfl rfl
    have hstep := step_host harr hs rfl
    rw [hgap] at hstep
    obtain ⟨henter, _⟩ := serviceEntryChangesNothingOfTheBlock
      { s with rx := bs, line := [], beyond := .silent, ops := [] }
    exact hstep.trans (henter hp hbs)
  have hloop := run_drain bs (s := { s with rx := [], line := [], beyond := .silent, ops := [] })
    hp rfl rfl
  obtain ⟨hresults, hrx, hservice⟩ :=
    feedAll_records bs { s with rx := [], line := [], beyond := .silent, ops := [] }
  rw [leaveHandler_drain (hservice.trans hs) hrx, hresults] at hloop
  exact (run_next _ hentry).trans hloop

/-! ### The drain loop with an endless supply (decision D11) -/

/-- A moment for each byte, and after each a gap. -/
def beats (bs : List Byte) : List Arrival := bs.flatMap fun b => [.byte b, .gap]

theorem beats_cons (b : Byte) (bs : List Byte) : beats (b :: bs) = .byte b :: .gap :: beats bs := rfl

theorem beats_concat (bs : List Byte) (b : Byte) :
    beats (bs ++ [b]) = beats bs ++ [.byte b] ++ [.gap] := by
  simp [beats]

/-- The drain loop under an endless supply: either a byte is due, or it has just arrived and the gap after it
lets the loop move. -/
inductive EndlessDrain (s : State) : Prop
  | byteDue (bs : List Byte) (hne : bs ≠ []) (hs : s.inService = true) (hp : s.phase = .running)
      (hl : s.line = []) (hy : s.beyond = .repeating (beats bs))
  | moveDue (bs : List Byte) (b : Byte) (hrx : s.rx ≠ []) (hs : s.inService = true)
      (hp : s.phase = .running) (hl : s.line = [])
      (hy : s.beyond = .repeating (.gap :: (beats bs ++ [.byte b])))

/-- Under an endless supply every step goes on in the drain loop and records nothing. -/
theorem EndlessDrain.step {s : State} (h : EndlessDrain s) :
    ∃ t, step s = .next t ∧ EndlessDrain t ∧ t.results = s.results := by
  cases h with
  | byteDue bs hne hs hp hl hy =>
    obtain ⟨b, bs, rfl⟩ := List.exists_cons_of_ne_nil hne
    rw [beats_cons] at hy
    have hstep := step_moment_byte hp (moment_repeating_cons hl hy)
    exact ⟨_, hstep, .moveDue bs b (by simp) hs hp rfl rfl, rfl⟩
  | moveDue bs b hrx hs hp hl hy =>
    obtain ⟨oldest, rest, hrx⟩ := List.exists_cons_of_ne_nil hrx
    obtain ⟨harr, hgap⟩ := moment_gap hp (moment_repeating_cons hl hy)
    rw [← beats_concat] at hgap
    have hstep := step_feed harr hs hp hrx
    rw [hgap] at hstep
    exact ⟨_, hstep, .byteDue (bs ++ [b]) (by simp) (by simp [hs]) (by simp [hp]) (by simp) (by simp),
      by simp⟩

/-- Under an endless supply the drain loop runs after any number of steps and has recorded nothing. -/
theorem EndlessDrain.run (n : Nat) {s : State} (h : EndlessDrain s) :
    ∃ t, Host.Core.run core n s = .next t ∧ EndlessDrain t ∧ t.results = s.results := by
  induction n generalizing s with
  | zero => exact ⟨s, run_zero s, h, rfl⟩
  | succ n ih =>
    obtain ⟨u, hstep, hu, hresults⟩ := h.step
    obtain ⟨t, hrun, ht, hresults'⟩ := ih hu
    exact ⟨t, (run_next n hstep).trans hrun, ht, hresults'.trans hresults⟩

theorem EndlessDrain.inService {s : State} (h : EndlessDrain s) : s.inService = true := by
  cases h <;> assumption

/-- Settles O49: the endless supply makes the drain loop an `EndlessDrain`. -/
theorem endlessBytesKeepServiceRunning : Obligations.EndlessBytesKeepServiceRunning := by
  intro bs s hbs hp hs hl hy n
  obtain ⟨t, hrun, ht, hresults⟩ := EndlessDrain.run n (.byteDue bs hbs hs hp hl hy)
  exact ⟨t, hrun, ht.inService, hresults⟩

end Sys2Proof.Machine
